-- ==== Sys2Proof/Word.lean ====
section
/-! DEFINITION. The word types of the SPOT SPI framer (spec/00_scope.md R5, R8). -/

namespace Sys2Proof

/-- A byte of a frame or of the sensor's memory: DATA_W = 8 bits (R5). -/
abbrev Byte := BitVec 8

/-- A 32-bit container: a register value as READ_REGISTER returns it, a CRC word, an int32 (R5, R8). -/
abbrev Word32 := BitVec 32

/-- A binary32 bit pattern: S.FULLSCALE, the operand `f` and the converters' results (R26, R230). -/
abbrev F32 := BitVec 32

/-- A natural number narrowed to its low 8 bits. -/
abbrev byteOf (n : Nat) : Byte := BitVec.ofNat 8 n

end Sys2Proof
end

