-- ==== Sys2Proof/Config.lean ====
section
/-! DEFINITION. What is fixed for this hardware (spec/00_scope.md R5), the small types of lines and of the
bus layer's answers, and the FREE VALUES: opaque constants without a body for what the spec leaves to the
environment (spec/93_implementation_defined.md, list I). Nothing in Lean can evaluate a free value. -/

namespace Sys2Proof

/-! ### Constants of R5 -/

/-- A register index is 6 bits wide (R5 REG_INDEX_W): indices below this bound. -/
def Config.regIndexBound : Nat := 64
/-- A register value is 24 bits wide (R5 REG_W): values below this bound. -/
def Config.regValueBound : Nat := 16777216
/-- A byte operand lies below this bound (R5 DATA_W, R94). -/
def Config.byteBound : Nat := 256
/-- The converters' operand `raw` is a 32-bit container: values below this bound (R94, D31). -/
def Config.rawBound : Nat := 4294967296
/-- The reset command of the sensor (R54, R142). -/
def Config.resetCommand : Nat := 0x88
/-- LABEL_MAX, the size of the label buffer (R5, R30). -/
def Config.labelMax : Nat := 32
/-- Length of the product-number and serial-number fields (R5, R202, R203). -/
def Config.longLabelLength : Nat := 32
/-- Length of the other four label fields (R5, R204 to R207). -/
def Config.shortLabelLength : Nat := 16
/-- Length of a CRC word in bytes (R210, R211). -/
def Config.crcLength : Nat := 4
/-- SCALE, the fixed-point scale divisor, is 2 to this power: 2097152 = 2^21 (R5). -/
def Config.scaleLog2 : Nat := 21
/-- TEMP_SPAN, 25.0 as binary32 (R5, R234). -/
def Config.tempSpan : F32 := 0x41C80000

/-! ### Lines and the bus -/

/-- The level of the data-ready input, 0 or 1 (R37, R261). -/
inductive Level where
  | low
  | high
  deriving DecidableEq, Repr, Inhabited

/-- The level of the chip-select output CS_N: Z (not driven), 0 or 1 (R32). -/
inductive CsLevel where
  | z
  | low
  | high
  deriving DecidableEq, Repr, Inhabited

/-- The bus-claim state BUS (R31). -/
inductive BusState where
  | released
  | claimed
  deriving DecidableEq, Repr, Inhabited

/-- BIT_ORDER, hardwired (R27): the type has the one value the hardware has. -/
inductive BitOrder where
  | msbFirst
  deriving DecidableEq, Repr, Inhabited

/-- SPI_MODE, hardwired (R27): the type has the one value the hardware has. -/
inductive SpiMode where
  | mode1
  deriving DecidableEq, Repr, Inhabited

/-- What the bus layer answers a `BusClaim` when asked (R115, R281): it grants, it lets the framer wait, or it fails. -/
inductive ClaimReply where
  | granted
  | notYet
  | fails
  deriving DecidableEq, Repr, Inhabited

/-- What the bus layer answers a `Frame` or a `BusRelease`: it completes or it fails, "no third outcome" (R119). -/
inductive CallReply where
  | completes
  | fails
  deriving DecidableEq, Repr, Inhabited

/-- An SPI clock frequency in Hz: a positive natural (10_state.md R20, R25). -/
structure ClockHz where
  hz : Nat
  positive : 0 < hz
  deriving DecidableEq, Repr

/-- The construction default of CFG_SCLK_HZ: 4,000,000 Hz (R5, R311). -/
def Config.defaultClock : ClockHz := ⟨4000000, by decide⟩

/-- The OPEN address parameters of R5 (D15, D16): `none` while a parameter has no value (R95, check 3). -/
structure OpenParams where
  labelProductNumber : Option Nat
  labelSerialNumber : Option Nat
  labelFullscale1 : Option Nat
  labelFullscale2 : Option Nat
  labelDeviceType : Option Nat
  labelSpeedClass : Option Nat
  sramCrc : Option Nat
  otpCrc : Option Nat
  deriving DecidableEq, Repr

/-- No OPEN parameter has a value: "Never fill a number the source lacks" (D15, D16). -/
def OpenParams.unset : OpenParams := ⟨none, none, none, none, none, none, none, none⟩

/-! ### Free values -/

/-- The n-th byte the sensor sends when no byte is given: any value (I1, R51; log 5). -/
opaque Config.freeMiso : Nat → Byte
/-- The n-th sample of the data-ready line when no level is given: any level (I2, R261; log 6). -/
opaque Config.freeDrdy : Nat → Level
/-- The bus layer's n-th answer to a claim when none is given: any answer (I5, I7; log 7). -/
opaque Config.freeClaim : Nat → ClaimReply
/-- The bus layer's n-th answer to a Frame or BusRelease when none is given: any answer (I5; log 7). -/
opaque Config.freeCall : Nat → CallReply
/-- CS_N after a BusFailure: any level (I6, R281; log 9). -/
opaque Config.freeCsN : Nat → CsLevel
/-- BUS after a BusFailure: any value (I6, R281; log 9). -/
opaque Config.freeBus : Nat → BusState
/-- A byte of FRAME_BUF that the spec leaves at any value: position k, draw n (I8; logs 9, 10). -/
opaque Config.freeBufByte : (n k : Nat) → Byte
/-- The bits from which a converter's NaN is made (I9, R236, D24; log 13). -/
opaque Config.freeNan : Nat → F32

end Sys2Proof
end

