-- ==== Sys2Proof/Syntax.lean ====
section
/-! DEFINITION. The host's command terms (spec/30_encoding.md R92): one constructor for every row of
spec/opcode_table.json. Operands are what the host hands over, before any range check (R94, R95): numbers
are naturals, a binary32 operand is its bit pattern. -/

namespace Sys2Proof

/-- A command of the host (R92). -/
inductive Instr where
  /-- `BEGIN` (R260) -/
  | beginLines
  /-- `SEND_COMMAND cmd` (R141) -/
  | sendCommand (cmd : Nat)
  /-- `RESET_SENSOR` (R142) -/
  | resetSensor
  /-- `READ_REGISTER reg` (R143) -/
  | readRegister (reg : Nat)
  /-- `WRITE_REGISTER reg, value` (R144) -/
  | writeRegister (reg value : Nat)
  /-- `READ_MEMORY addr, n` (R172) -/
  | readMemory (addr n : Nat)
  /-- `WRITE_MEMORY addr, [d0, ...]` (R173) -/
  | writeMemory (addr : Nat) (data : List Nat)
  /-- `READ_OTP addr, n` (R174) -/
  | readOtp (addr n : Nat)
  /-- `READ_LABEL addr, len` (R200) -/
  | readLabel (addr len : Nat)
  /-- `READ_PRODUCT_NUMBER` (R202) -/
  | readProductNumber
  /-- `READ_SERIAL_NUMBER` (R203) -/
  | readSerialNumber
  /-- `READ_FULLSCALE_LABEL_1` (R204) -/
  | readFullscaleLabel1
  /-- `READ_FULLSCALE_LABEL_2` (R205) -/
  | readFullscaleLabel2
  /-- `READ_DEVICE_TYPE` (R206) -/
  | readDeviceType
  /-- `READ_SPEED_CLASS` (R207) -/
  | readSpeedClass
  /-- `READ_SRAM_CRC` (R210) -/
  | readSramCrc
  /-- `READ_OTP_CRC` (R211) -/
  | readOtpCrc
  /-- `IS_DATA_AVAILABLE` (R261) -/
  | isDataAvailable
  /-- `SET_FULLSCALE f` (R235) -/
  | setFullscale (f : F32)
  /-- `SIGN_EXTEND_24 raw` (R231) -/
  | signExtend24 (raw : Nat)
  /-- `CONVERT_PRESSURE raw, f` (R232) -/
  | convertPressure (raw : Nat) (f : F32)
  /-- `CONVERT_PRESSURE_STORED raw` (R233) -/
  | convertPressureStored (raw : Nat)
  /-- `CONVERT_TEMPERATURE raw` (R234) -/
  | convertTemperature (raw : Nat)
  deriving DecidableEq, Repr

end Sys2Proof
end

