-- ==== Sys2Proof/Machine/State.lean ====
section
/-! DEFINITION. The framer's state (spec/10_state.md R20 to R37): every field of R20's table, the host's command
list and position (R22), the outcomes the host receives (00_scope.md R12, 60_exceptions.md R282), the OPEN
parameters (00_scope.md R5), and, as the model's own data, what the environment answers (R37, R51, R281). -/

namespace Sys2Proof.Machine

/-- A bus event (R36). -/
inductive BusEvent where
  /-- `Begin(cs_line, rdy_line)` -/
  | began (csLine rdyLine : Nat)
  /-- `Claim(hz, MSB_FIRST, MODE1)` -/
  | claim (hz : ClockHz) (order : BitOrder) (mode : SpiMode)
  /-- `Frame(tx, rx)` -/
  | frame (tx rx : List Byte)
  /-- `Release` -/
  | release
  /-- `DrdySample(level)` -/
  | drdySample (level : Level)
  deriving DecidableEq, Repr

/-- What a command that completes returns to the host. -/
inductive Result where
  /-- `()`: no result -/
  | unit
  /-- a register value in its 32-bit container (R143), or a CRC word (R209) -/
  | uint32 (v : Word32)
  /-- the signed value of R231 -/
  | int32 (v : Word32)
  /-- a converter's result (R230) -/
  | binary32 (v : F32)
  /-- the bytes of a memory read (R171) -/
  | bytes (bs : List Byte)
  /-- a label, as raw octets (R200, D17) -/
  | label (bs : List Byte)
  /-- IS_DATA_AVAILABLE (R261) -/
  | bool (b : Bool)
  deriving DecidableEq, Repr

/-- The reasons of a refusal (R95, R282). -/
inductive RefuseReason where
  | operandRange
  | notStarted
  | parameterOpen
  deriving DecidableEq, Repr

/-- The outcome of a command (R282): a refusal records the command. -/
inductive CmdOutcome where
  | ok (r : Result)
  | busFailure
  | refused (reason : RefuseReason) (cmd : Instr)
  deriving DecidableEq, Repr

/-- Answers of the environment, in the order they will be taken: first those given, then free values. -/
structure Feed (α : Type) where
  /-- the answers given, the next one first -/
  given : List α
  /-- how many answers were taken so far -/
  taken : Nat
  deriving DecidableEq, Repr

/-- What the environment answers (R37, R51, R115, R261, R281). The model's own data: no part of the hardware. -/
structure Env where
  /-- bytes on MISO (log 5) -/
  miso : Feed Byte
  /-- levels of the data-ready line (log 6) -/
  drdy : Feed Level
  /-- the bus layer's answers to BusClaim (logs 7, 8) -/
  claims : Feed ClaimReply
  /-- the bus layer's answers to Frame and BusRelease (log 7) -/
  calls : Feed CallReply
  /-- how many other free values were drawn (logs 9, 10, 13) -/
  draws : Nat
  deriving DecidableEq, Repr

/-- The state of the machine. -/
structure State where
  /-- CFG_CS_LINE (R23) -/
  csLine : Nat
  /-- CFG_RDY_LINE (R24) -/
  rdyLine : Nat
  /-- CFG_SCLK_HZ (R25) -/
  sclkHz : ClockHz
  /-- FULLSCALE (R26) -/
  fullscale : F32
  /-- BIT_ORDER (R27) -/
  bitOrder : BitOrder
  /-- SPI_MODE (R27) -/
  spiMode : SpiMode
  /-- the OPEN parameters (00_scope.md R5, 30_encoding.md R95) -/
  params : OpenParams
  /-- FRAME_BUF (R29) -/
  frameBuf : Vector Byte 4
  /-- LABEL_BUF (R30) -/
  labelBuf : Vector Byte 32
  /-- BUS (R31) -/
  bus : BusState
  /-- CS_N (R32) -/
  csN : CsLevel
  /-- STARTED (R34) -/
  started : Bool
  /-- FAULT (R35) -/
  fault : Bool
  /-- REFUSED (R35) -/
  refused : Bool
  /-- TRACE (R36) -/
  trace : List BusEvent
  /-- the outcomes of the commands so far (R12, R282; log 4) -/
  outcomes : List CmdOutcome
  /-- the host's commands (R22; log 1) -/
  program : List Instr
  /-- the position in them (R22; log 1) -/
  index : Nat
  /-- the environment's answers -/
  env : Env
  deriving DecidableEq, Repr

/-- Why the machine stops with a fault. -/
inductive Fault where
  /-- Raised by `step` in a state whose FAULT mark is set: the bus layer failed a call, the run has ended (R281,
  R286). Safe: it is the spec's own end of the run; the failure itself is a next state (log 3). -/
  | busFailure
  deriving DecidableEq, Repr

/-- Why the machine gives no further step. -/
inductive Refusal where
  /-- Raised by an arm of `exec` for an instruction without a meaning yet; no arm raises it now. Safe. -/
  | notModelled (mnemonic : String)
  /-- Raised by `step` after a command refused for an operand out of range (R95, check 1). Safe. -/
  | operandRange
  /-- Raised by `step` after a command refused because BEGIN has not run (R95, check 2). Safe. -/
  | notStarted
  /-- Raised by `step` after a command refused because its address parameter is OPEN (R95, check 3). Safe. -/
  | parameterOpen
  /-- Raised by `step` in a state with the REFUSED mark and no recorded refusal, which no run reaches. Safe. -/
  | unrecorded
  deriving DecidableEq, Repr

/-- A feed from which nothing was given and nothing was taken. -/
def Feed.fresh {α : Type} : Feed α := ⟨[], 0⟩

/-- The environment before any answer was taken: nothing is given, every answer is a free value (log 22). -/
def Env.fresh : Env := ⟨Feed.fresh, Feed.fresh, Feed.fresh, Feed.fresh, 0⟩

/-- The state right after construction with the given parameters (R310, R311). FRAME_BUF and LABEL_BUF, which the
spec leaves unspecified, hold zeros (log 11). -/
def State.construct (csLine rdyLine : Nat) (sclkHz : ClockHz) (fullscale : F32) (params : OpenParams) : State where
  csLine := csLine
  rdyLine := rdyLine
  sclkHz := sclkHz
  fullscale := fullscale
  bitOrder := .msbFirst
  spiMode := .mode1
  params := params
  frameBuf := Vector.replicate 4 0
  labelBuf := Vector.replicate 32 0
  bus := .released
  csN := .z
  started := false
  fault := false
  refused := false
  trace := []
  outcomes := []
  program := []
  index := 0
  env := Env.fresh

/-- The machine right after reset: construction with the defaults (R310, R311; log 21), no OPEN parameter set
(log 12). -/
def State.reset : State := State.construct 10 7 Config.defaultClock 0x00000000 OpenParams.unset

end Sys2Proof.Machine
end

