-- ==== Sys2Proof/Machine/Flags.lean ====
section
/-! DEFINITION. The framer has no flags and no condition codes (spec/10_state.md R33): no command computes one, and
multiplication keeps no exception flag (44_unit_converter.md R230). What stands in their place are the two outcome
marks FAULT and REFUSED (R35), and the one flag-like value, the data-ready status, which is a command's result
(45_control_lines.md R261) and is kept nowhere. -/

namespace Sys2Proof.Machine

/-- A mark is set: the run has ended (R35, 00_scope.md R12). -/
def State.marked (s : State) : Bool := s.fault || s.refused

/-- IS_DATA_AVAILABLE's status: true when the data-ready line is low (R261). -/
def dataReady (level : Level) : Bool := level == .low

end Sys2Proof.Machine
end

