-- ==== Sys2Proof/Machine/Float.lean ====
section
/-! DEFINITION. IEEE 754 binary32 as spec/44_unit_converter.md takes it (R230, R236; D3; log 14): rounding to
nearest with ties to even, gradual underflow, overflow to infinity; multiplication with its special cases.
Values are computed exactly in naturals and narrowed once at the end. -/

namespace Sys2Proof.Machine

/-- The sign bit of a binary32 pattern. -/
def f32Neg (x : F32) : Bool := x.getLsbD 31

/-- The 8-bit exponent field. -/
def f32Exp (x : F32) : Nat := (x.toNat >>> 23) % 256

/-- The 23-bit fraction field. -/
def f32Frac (x : F32) : Nat := x.toNat % 8388608

/-- The pattern is a NaN: exponent all ones, fraction not zero. -/
def f32IsNaN (x : F32) : Bool := f32Exp x == 255 && f32Frac x != 0

/-- The pattern is an infinity. -/
def f32IsInf (x : F32) : Bool := f32Exp x == 255 && f32Frac x == 0

/-- The pattern is +0.0 or -0.0. -/
def f32IsZero (x : F32) : Bool := f32Exp x == 0 && f32Frac x == 0

/-- The pattern is neither an infinity nor a NaN. -/
def f32IsFinite (x : F32) : Bool := f32Exp x != 255

/-- The significand of a finite pattern as a natural number: its magnitude is this times 2 to `f32Scale`. -/
def f32Sig (x : F32) : Nat := if f32Exp x = 0 then f32Frac x else f32Frac x + 8388608

/-- The power of two that scales `f32Sig` (subnormals share the exponent of the least normal numbers). -/
def f32Scale (x : F32) : Int := if f32Exp x = 0 then -149 else (f32Exp x : Int) - 150

/-- A pattern from its sign and its low 31 bits (exponent and fraction, read as one number). -/
def f32Of (neg : Bool) (magnitude : Nat) : F32 :=
  BitVec.ofNat 32 (magnitude % 2147483648 + if neg then 2147483648 else 0)

/-- The magnitude bits of infinity. -/
def f32InfBits : Nat := 0x7F800000

/-- The quotient of two naturals rounded to the nearest natural, a tie to the even one (R230). -/
def rneDiv (n d : Nat) : Nat :=
  let q := n / d
  let r := n % d
  if 2 * r < d then q
  else if d < 2 * r then q + 1
  else q + q % 2

/-- The greatest k with 2^k at most n/d, for positive n and d. -/
def floorLog2 (n d : Nat) : Int :=
  let g : Int := (Nat.log2 n : Int) - (Nat.log2 d : Int)
  if d * 2 ^ g.toNat ≤ n * 2 ^ (-g).toNat then g else g - 1

/-- The exponent of the last place kept when n/d is rounded to binary32: 24 significant bits, never below 2^-149
(gradual underflow, R230). -/
def roundingUnit (n d : Nat) : Int := max (floorLog2 n d - 23) (-149)

/-- The magnitude bits of `RNE32(n/d)` before the overflow check: a significand counted in units of the last place,
laid on the exponent it has; a significand that rounds up to the next power of two carries into the exponent. -/
def roundedBits (n d : Nat) : Nat :=
  let u := roundingUnit n d
  (u + 149).toNat * 8388608 + rneDiv (n * 2 ^ (-u).toNat) (d * 2 ^ u.toNat)

/-- `RNE32` of the real ±n/d, d positive (R9, R230): round to nearest even, overflow to infinity. -/
def rne32 (neg : Bool) (n d : Nat) : F32 :=
  if n = 0 then f32Of neg 0
  else f32Of neg (min (roundedBits n d) f32InfBits)

/-- `RNE32` of the real ±m × 2^e. -/
def rne32Scaled (neg : Bool) (m : Nat) (e : Int) : F32 := rne32 neg (m * 2 ^ e.toNat) (2 ^ (-e).toNat)

/-- A NaN pattern made of free bits: every NaN pattern is one of these (R236, D24). -/
def nanOf (w : F32) : F32 :=
  let frac := if f32Frac w = 0 then 1 else f32Frac w
  f32Of (f32Neg w) (f32InfBits + frac)

/-- IEEE 754 multiplication (R236); `nan` is the NaN returned where the result is a NaN. -/
def f32Mul (nan a b : F32) : F32 :=
  let neg := f32Neg a != f32Neg b
  if f32IsNaN a || f32IsNaN b then nan
  else if f32IsInf a || f32IsInf b then
    if f32IsZero a || f32IsZero b then nan else f32Of neg f32InfBits
  else rne32Scaled neg (f32Sig a * f32Sig b) (f32Scale a + f32Scale b)

/-- `binary32(s) / 2^k` (R232, R237): the nearest binary32 value to the real quotient; it is exact for the readings
the converters take. -/
def f32OfIntScaled (s : Int) (k : Nat) : F32 := rne32 (decide (s < 0)) s.natAbs (2 ^ k)

end Sys2Proof.Machine
end

