-- ==== Sys2Proof/WellFormed.lean ====
section
/-! DEFINITION. The operand ranges of spec/30_encoding.md R94: a command is well-formed when every operand is
in its range. A command that is not is refused with OperandRange (R95, check 1). -/

namespace Sys2Proof

/-- Every operand of the command is in its range (R94). -/
def Instr.wellFormed : Instr → Bool
  | .beginLines => true
  | .sendCommand cmd => decide (cmd < Config.byteBound)
  | .resetSensor => true
  | .readRegister reg => decide (reg < Config.regIndexBound)
  | .writeRegister reg value => decide (reg < Config.regIndexBound) && decide (value < Config.regValueBound)
  | .readMemory _ _ => true
  | .writeMemory _ data => data.all fun d => decide (d < Config.byteBound)
  | .readOtp _ _ => true
  | .readLabel _ _ => true
  | .readProductNumber => true
  | .readSerialNumber => true
  | .readFullscaleLabel1 => true
  | .readFullscaleLabel2 => true
  | .readDeviceType => true
  | .readSpeedClass => true
  | .readSramCrc => true
  | .readOtpCrc => true
  | .isDataAvailable => true
  | .setFullscale _ => true
  | .signExtend24 raw => decide (raw < Config.rawBound)
  | .convertPressure raw _ => decide (raw < Config.rawBound)
  | .convertPressureStored raw => decide (raw < Config.rawBound)
  | .convertTemperature raw => decide (raw < Config.rawBound)

end Sys2Proof
end

