-- ==== Sys2Proof/Decode.lean ====
section
/-! DEFINITION. The two encodings of spec/30_encoding.md. THE WIRE: the frames of R80 to R91, their decoder
(R87, R90) and, after it, their encoder. THE HOST'S TEXT: the command syntax of R92, its reader and, after it,
its printer. The host's commands have no binary encoding (R92, D2; log 1): what a span of frames says of a
command is only what the wire carries (log 15). -/

namespace Sys2Proof

/-! ### Frames -/

/-- The three rows of the region-and-operation table (R91); (OTP, WRITE) has no row (R89). -/
inductive MemVariant where
  | mainRead
  | mainWrite
  | otpRead
  deriving DecidableEq, Repr

/-- Column "opcode base" of R91. -/
def memOpcodeBase : MemVariant → Nat
  | .mainRead => 0x10
  | .mainWrite => 0x90
  | .otpRead => 0x20

/-- Column "address mask on A>>8" of R91. -/
def memAddrMask : MemVariant → Nat
  | .mainRead => 0x0F
  | .mainWrite => 0x0F
  | .otpRead => 0x1F

/-- `MemFrame(variant, a, d)` (R170): opcode with the high address bits, `a & 0xFF`, the data byte or placeholder. -/
def memFrame (v : MemVariant) (a : Nat) (d : Byte) : List Byte :=
  [byteOf (memOpcodeBase v ||| ((a >>> 8) &&& memAddrMask v)), byteOf (a &&& 0xFF), d]

/-- The frames of a span in increasing address order (R171), one for each byte of the list. -/
def spanFrames (v : MemVariant) (a : Nat) : List Byte → List (List Byte)
  | [] => []
  | d :: ds => memFrame v a d :: spanFrames v (a + 1) ds

/-- The data bytes of a read span of n bytes: all placeholders 0x00 (R171). -/
def placeholders (n : Nat) : List Byte := List.replicate n 0

/-- Format F1 (R81). -/
def commandFrame (cmd : Nat) : List Byte := [byteOf cmd]

/-- Format F4, register read (R82, R143). -/
def regReadFrame (reg : Nat) : List Byte := [byteOf (reg ||| 0x40), 0, 0, 0]

/-- Format F4, register write, big-endian (R82, R85, R56). -/
def regWriteFrame (reg value : Nat) : List Byte :=
  [byteOf (reg ||| 0xC0), byteOf (value >>> 16), byteOf (value >>> 8), byteOf value]

/-! ### The wire decoder -/

/-- Why a list of frames is no command of the framer. -/
inductive DecodeError where
  /-- a claim with no frame in it: no address is on the wire (R175) -/
  | emptySpan
  /-- a frame whose length is not 1, 3 or 4 (R80, R111) -/
  | badLength (length : Nat)
  /-- byte0 is in no class of a frame of this length (R90) -/
  | unusedOpcode (byte0 : Byte)
  /-- a frame of a class that no command sends: no row of the table has its byte0 (R82, R87, R88; log 15) -/
  | noCommand (byte0 : Byte)
  /-- a read frame whose placeholder bytes are not 0x00: no row of the table has its bits (R82, R83; log 16) -/
  | badPlaceholder
  /-- several frames that are not one span of consecutive addresses (R171) -/
  | notASpan
  deriving DecidableEq, Repr

/-- The class of a frame, with its bytes (R90). -/
inductive FrameClass where
  | command (b0 : Byte)
  | memory (b0 b1 b2 : Byte)
  | register (b0 b1 b2 b3 : Byte)
  deriving DecidableEq, Repr

/-- A frame is classified by (length, byte0) and by nothing else: length 1 is a command; length 3 with byte0 in 0x10 to
0x3F or 0x90 to 0x9F is a memory frame; length 4 with byte0 in 0x40 to 0xFF is a register frame (R90). -/
def classifyFrame : List Byte → Except DecodeError FrameClass
  | [b0] => .ok (.command b0)
  | [b0, b1, b2] =>
    if (0x10 ≤ b0.toNat ∧ b0.toNat ≤ 0x3F) ∨ (0x90 ≤ b0.toNat ∧ b0.toNat ≤ 0x9F) then .ok (.memory b0 b1 b2)
    else .error (.unusedOpcode b0)
  | [b0, b1, b2, b3] =>
    if 0x40 ≤ b0.toNat then .ok (.register b0 b1 b2 b3) else .error (.unusedOpcode b0)
  | bs => .error (.badLength bs.length)

/-- Big-endian assembly of the three value bytes (R56). -/
def bigEndian24 (b1 b2 b3 : Byte) : Nat := b1.toNat * 65536 + b2.toNat * 256 + b3.toNat

/-- The command of a one-byte frame (R81); 0x88 is the reset command (R87; log 15). -/
def decodeF1 (b0 : Byte) : Except DecodeError Instr :=
  if b0.toNat = Config.resetCommand then .ok .resetSensor else .ok (.sendCommand b0.toNat)

/-- The command of a memory frame, by byte0 (R83, R87): the address bits are byte0's low bits and byte1. -/
def decodeF3 (b0 b1 b2 : Byte) : Except DecodeError Instr :=
  let c := b0.toNat
  if 0x10 ≤ c ∧ c ≤ 0x1F then
    if b2 = 0 then .ok (.readMemory ((c % 16) * 256 + b1.toNat) 1) else .error .badPlaceholder
  else if 0x20 ≤ c ∧ c ≤ 0x3F then
    if b2 = 0 then .ok (.readOtp ((c % 32) * 256 + b1.toNat) 1) else .error .badPlaceholder
  else if 0x90 ≤ c ∧ c ≤ 0x9F then .ok (.writeMemory ((c % 16) * 256 + b1.toNat) [b2.toNat])
  else .error (.noCommand b0)

/-- The command of a register frame, by byte0 (R82, R87). A register frame with byte0 in 0x80 to 0xBF is no command's:
the read opcodes are 0x40 to 0x7F and the write opcodes 0xC0 to 0xFF (R82, R87, R88; log 15). -/
def decodeF4 (b0 b1 b2 b3 : Byte) : Except DecodeError Instr :=
  let c := b0.toNat
  if 0x40 ≤ c ∧ c ≤ 0x7F then
    if b1 = 0 ∧ b2 = 0 ∧ b3 = 0 then .ok (.readRegister (c % 64)) else .error .badPlaceholder
  else if 0xC0 ≤ c then .ok (.writeRegister (c % 64) (bigEndian24 b1 b2 b3))
  else .error (.noCommand b0)

/-- The command of a frame of a class. -/
def decodeClass : FrameClass → Except DecodeError Instr
  | .command b0 => decodeF1 b0
  | .memory b0 b1 b2 => decodeF3 b0 b1 b2
  | .register b0 b1 b2 b3 => decodeF4 b0 b1 b2 b3

/-- The command of a frame: the frame is classified (R90), and its class and bits select the command (R81 to R83, R87). -/
def decodeFrame (bs : List Byte) : Except DecodeError Instr :=
  match classifyFrame bs with
  | .ok c => decodeClass c
  | .error e => .error e

/-- The frames are one span of the variant from address a with these data bytes (R171). -/
def spanOr (v : MemVariant) (a : Nat) (ds : List Byte) (fs : List (List Byte)) (i : Instr) : Except DecodeError Instr :=
  if fs = spanFrames v a ds then .ok i else .error .notASpan

/-- The command a claim's frames stand for, as far as the wire shows it: one frame is that frame's command, several
frames are a span of one memory class (R117, R171). -/
def decodeSpan : List (List Byte) → Except DecodeError Instr
  | [] => .error .emptySpan
  | [f] => decodeFrame f
  | f :: fs =>
    match decodeFrame f with
    | .ok (.readMemory a _) =>
      spanOr .mainRead a (placeholders (f :: fs).length) (f :: fs) (.readMemory a (f :: fs).length)
    | .ok (.readOtp a _) =>
      spanOr .otpRead a (placeholders (f :: fs).length) (f :: fs) (.readOtp a (f :: fs).length)
    | .ok (.writeMemory a _) =>
      let ds := (f :: fs).map fun g => g.getD 2 0
      spanOr .mainWrite a ds (f :: fs) (.writeMemory a (ds.map BitVec.toNat))
    | .ok _ => .error .notASpan
    | .error e => .error e

/-- The bytes of a frame given as one number, byte0 most significant (opcode_table.json, note of SEND_COMMAND). -/
def wordBytes : (len w : Nat) → List Byte
  | 0, _ => []
  | n + 1, w => byteOf (w >>> (8 * n)) :: wordBytes n w

/-- What the wire decoder reads from one frame of nbits bits (the host's question; log 15). -/
def decodeTableWord (nbits w : Nat) : Option Instr :=
  if nbits % 8 = 0 then
    match decodeSpan [wordBytes (nbits / 8) w] with
    | .ok i => some i
    | .error _ => none
  else none

/-! ### The wire encoder -/

/-- A read span of n bytes at an OPEN address; no frame while the address has no value (R95). -/
def openReadSpan (v : MemVariant) (n : Nat) : Option Nat → List (List Byte)
  | none => []
  | some a => spanFrames v a (placeholders n)

/-- The frames a command sends in its one bus claim, in order (R80 to R86, R93); none for a command without frames. -/
def encodeFrames (p : OpenParams) : Instr → List (List Byte)
  | .beginLines => []
  | .sendCommand cmd => [commandFrame cmd]
  | .resetSensor => [commandFrame Config.resetCommand]
  | .readRegister reg => [regReadFrame reg]
  | .writeRegister reg value => [regWriteFrame reg value]
  | .readMemory addr n => spanFrames .mainRead addr (placeholders n)
  | .writeMemory addr data => spanFrames .mainWrite addr (data.map byteOf)
  | .readOtp addr n => spanFrames .otpRead addr (placeholders n)
  | .readLabel addr len => spanFrames .mainRead addr (placeholders (min len Config.labelMax))
  | .readProductNumber => openReadSpan .mainRead Config.longLabelLength p.labelProductNumber
  | .readSerialNumber => openReadSpan .mainRead Config.longLabelLength p.labelSerialNumber
  | .readFullscaleLabel1 => openReadSpan .mainRead Config.shortLabelLength p.labelFullscale1
  | .readFullscaleLabel2 => openReadSpan .mainRead Config.shortLabelLength p.labelFullscale2
  | .readDeviceType => openReadSpan .mainRead Config.shortLabelLength p.labelDeviceType
  | .readSpeedClass => openReadSpan .mainRead Config.shortLabelLength p.labelSpeedClass
  | .readSramCrc => openReadSpan .mainRead Config.crcLength p.sramCrc
  | .readOtpCrc => openReadSpan .otpRead Config.crcLength p.otpCrc
  | .isDataAvailable => []
  | .setFullscale _ => []
  | .signExtend24 _ => []
  | .convertPressure _ _ => []
  | .convertPressureStored _ => []
  | .convertTemperature _ => []

/-- The memory read the wire shows of a main-memory span: the address as the frames carry it (R84). -/
def wireRead (addr n : Nat) : Instr := .readMemory (addr % 4096) n

/-- The command the wire shows of a command that sends at least one frame: addresses as the frames carry them
(R84), RESET_SENSOR for the command byte 0x88 (R93), the plain memory read for a label or a CRC word (R93). -/
def wireForm (p : OpenParams) : Instr → Instr
  | .beginLines => .beginLines
  | .sendCommand cmd => if cmd = Config.resetCommand then .resetSensor else .sendCommand cmd
  | .resetSensor => .resetSensor
  | .readRegister reg => .readRegister reg
  | .writeRegister reg value => .writeRegister reg value
  | .readMemory addr n => wireRead addr n
  | .writeMemory addr data => .writeMemory (addr % 4096) data
  | .readOtp addr n => .readOtp (addr % 8192) n
  | .readLabel addr len => wireRead addr (min len Config.labelMax)
  | .readProductNumber => wireRead (p.labelProductNumber.getD 0) Config.longLabelLength
  | .readSerialNumber => wireRead (p.labelSerialNumber.getD 0) Config.longLabelLength
  | .readFullscaleLabel1 => wireRead (p.labelFullscale1.getD 0) Config.shortLabelLength
  | .readFullscaleLabel2 => wireRead (p.labelFullscale2.getD 0) Config.shortLabelLength
  | .readDeviceType => wireRead (p.labelDeviceType.getD 0) Config.shortLabelLength
  | .readSpeedClass => wireRead (p.labelSpeedClass.getD 0) Config.shortLabelLength
  | .readSramCrc => wireRead (p.sramCrc.getD 0) Config.crcLength
  | .readOtpCrc => .readOtp (p.otpCrc.getD 0 % 8192) Config.crcLength
  | .isDataAvailable => .isDataAvailable
  | .setFullscale f => .setFullscale f
  | .signExtend24 raw => .signExtend24 raw
  | .convertPressure raw f => .convertPressure raw f
  | .convertPressureStored raw => .convertPressureStored raw
  | .convertTemperature raw => .convertTemperature raw

/-! ### The host's command syntax: the reader (R92) -/

/-- Why a line is no command of R92. -/
inductive SyntaxError where
  | unknownMnemonic
  | operandCount
  | badNumber
  | badFloat
  | badList
  deriving DecidableEq, Repr

/-- A blank between tokens (log 17). -/
def isBlank (c : Char) : Bool := c == ' ' || c == '\t' || c == '\r'

/-- The characters without the blanks at both ends. -/
def trimBlanks (cs : List Char) : List Char :=
  ((cs.dropWhile isBlank).reverse.dropWhile isBlank).reverse

/-- A decimal digit's value. -/
def decDigit (c : Char) : Option Nat :=
  if 48 ≤ c.toNat ∧ c.toNat ≤ 57 then some (c.toNat - 48) else none

/-- A hexadecimal digit's value, either case. -/
def hexDigit (c : Char) : Option Nat :=
  if 48 ≤ c.toNat ∧ c.toNat ≤ 57 then some (c.toNat - 48)
  else if 65 ≤ c.toNat ∧ c.toNat ≤ 70 then some (c.toNat - 55)
  else if 97 ≤ c.toNat ∧ c.toNat ≤ 102 then some (c.toNat - 87)
  else none

/-- Digits read from the left, on top of a number read so far. -/
def digitsOnto (digit : Char → Option Nat) (base : Nat) : Nat → List Char → Option Nat
  | n, [] => some n
  | n, c :: cs =>
    match digit c with
    | some d => digitsOnto digit base (n * base + d) cs
    | none => none

/-- At least one digit and nothing else. -/
def readDigits (digit : Char → Option Nat) (base : Nat) : List Char → Option Nat
  | [] => none
  | cs => digitsOnto digit base 0 cs

/-- A natural in decimal or `0x` hexadecimal (R92). -/
def readNat (cs : List Char) : Option Nat :=
  match trimBlanks cs with
  | '0' :: 'x' :: hs => readDigits hexDigit 16 hs
  | ds => readDigits decDigit 10 ds

/-- A character is a decimal digit. -/
def isDec (c : Char) : Bool := (decDigit c).isSome

/-- The value ±digits × 10^exponent as binary32 (R92, D3; log 17). -/
def decimalValue (neg : Bool) (digits : Nat) (exponent : Int) : F32 :=
  Machine.rne32 neg (digits * 10 ^ exponent.toNat) (10 ^ (-exponent).toNat)

/-- The exponent part of a decimal literal: nothing, or `e` with a signed decimal number (log 17). -/
def readExponent : List Char → Option Int
  | [] => some 0
  | c :: cs =>
    if c == 'e' || c == 'E' then
      match cs with
      | '-' :: ds => (readDigits decDigit 10 ds).map fun n => -(n : Int)
      | '+' :: ds => (readDigits decDigit 10 ds).map fun n => (n : Int)
      | ds => (readDigits decDigit 10 ds).map fun n => (n : Int)
    else none

/-- An unsigned decimal literal: digits with at most one point, then an exponent. DESIGN CHOICE (log 17): digits may
stand on one side of the point only, as in `.5` and `5.`, but not on neither side. -/
def readDecimal (neg : Bool) (cs : List Char) : Option F32 :=
  let whole := cs.takeWhile isDec
  let afterWhole := cs.dropWhile isDec
  let frac := match afterWhole with
    | '.' :: fs => fs.takeWhile isDec
    | _ => []
  let afterFrac := match afterWhole with
    | '.' :: fs => fs.dropWhile isDec
    | fs => fs
  match readDigits decDigit 10 (whole ++ frac), readExponent afterFrac with
  | some n, some e => some (decimalValue neg n (e - (frac.length : Int)))
  | _, _ => none

/-- The tail of a bit pattern `f32(0xXXXXXXXX)`: eight hexadecimal digits and the closing bracket (R92). -/
def readF32Bits (cs : List Char) : Option F32 :=
  if cs.length = 9 ∧ cs.getLast? = some ')' then
    (readDigits hexDigit 16 (cs.take 8)).map fun n => BitVec.ofNat 32 n
  else none

/-- A binary32 operand: a bit pattern or a decimal literal (R92). -/
def readFloat (cs : List Char) : Option F32 :=
  match trimBlanks cs with
  | 'f' :: '3' :: '2' :: '(' :: '0' :: 'x' :: hs => readF32Bits hs
  | '-' :: ds => readDecimal true ds
  | ds => readDecimal false ds

/-- Split at every occurrence of a character. -/
def splitAtChar (sep : Char) : List Char → List (List Char)
  | [] => [[]]
  | c :: cs =>
    if c = sep then [] :: splitAtChar sep cs
    else
      match splitAtChar sep cs with
      | [] => [[c]]
      | w :: ws => (c :: w) :: ws

/-- Split at the commas outside square brackets (the flag says: inside a bracket). -/
def splitOperands : Bool → List Char → List (List Char)
  | _, [] => [[]]
  | inside, c :: cs =>
    if c = ',' ∧ inside = false then [] :: splitOperands inside cs
    else
      match splitOperands (if c = '[' then true else if c = ']' then false else inside) cs with
      | [] => [[c]]
      | w :: ws => (c :: w) :: ws

/-- Read each part, all or nothing. -/
def readAll (parts : List (List Char)) : Option (List Nat) :=
  match parts with
  | [] => some []
  | p :: ps =>
    match readNat p, readAll ps with
    | some n, some ns => some (n :: ns)
    | _, _ => none

/-- The inside of a bracketed list: empty, or numbers separated by commas. -/
def readListInside (inner : List Char) : Option (List Nat) :=
  if trimBlanks inner = [] then some [] else readAll (splitAtChar ',' inner)

/-- A byte list in brackets (R92). -/
def readList (cs : List Char) : Option (List Nat) :=
  match trimBlanks cs with
  | '[' :: rest => if rest.getLast? = some ']' then readListInside rest.dropLast else none
  | _ => none

/-- A command without operands. -/
def noOperand (i : Instr) : List (List Char) → Except SyntaxError Instr
  | [] => .ok i
  | _ => .error .operandCount

/-- A command with one natural operand. -/
def oneNat (mk : Nat → Instr) : List (List Char) → Except SyntaxError Instr
  | [a] =>
    match readNat a with
    | some n => .ok (mk n)
    | none => .error .badNumber
  | _ => .error .operandCount

/-- A command with two natural operands. -/
def twoNats (mk : Nat → Nat → Instr) : List (List Char) → Except SyntaxError Instr
  | [a, b] =>
    match readNat a, readNat b with
    | some m, some n => .ok (mk m n)
    | _, _ => .error .badNumber
  | _ => .error .operandCount

/-- A command with a natural and a byte list. -/
def natAndList (mk : Nat → List Nat → Instr) : List (List Char) → Except SyntaxError Instr
  | [a, b] =>
    match readNat a, readList b with
    | some m, some ns => .ok (mk m ns)
    | none, _ => .error .badNumber
    | _, none => .error .badList
  | _ => .error .operandCount

/-- A command with one binary32 operand. -/
def oneFloat (mk : F32 → Instr) : List (List Char) → Except SyntaxError Instr
  | [a] =>
    match readFloat a with
    | some f => .ok (mk f)
    | none => .error .badFloat
  | _ => .error .operandCount

/-- A command with a natural and a binary32 operand. -/
def natAndFloat (mk : Nat → F32 → Instr) : List (List Char) → Except SyntaxError Instr
  | [a, b] =>
    match readNat a, readFloat b with
    | some m, some f => .ok (mk m f)
    | none, _ => .error .badNumber
    | _, none => .error .badFloat
  | _ => .error .operandCount

/-! The mnemonics of R92, as characters. -/

/-- `BEGIN` -/
def mnBegin : List Char :=
  ['B', 'E', 'G', 'I', 'N']
/-- `SEND_COMMAND` -/
def mnSendCommand : List Char :=
  ['S', 'E', 'N', 'D', '_', 'C', 'O', 'M', 'M', 'A', 'N', 'D']
/-- `RESET_SENSOR` -/
def mnResetSensor : List Char :=
  ['R', 'E', 'S', 'E', 'T', '_', 'S', 'E', 'N', 'S', 'O', 'R']
/-- `READ_REGISTER` -/
def mnReadRegister : List Char :=
  ['R', 'E', 'A', 'D', '_', 'R', 'E',
  'G', 'I', 'S', 'T', 'E', 'R']
/-- `WRITE_REGISTER` -/
def mnWriteRegister : List Char :=
  ['W', 'R', 'I', 'T', 'E', '_', 'R',
  'E', 'G', 'I', 'S', 'T', 'E', 'R']
/-- `READ_MEMORY` -/
def mnReadMemory : List Char :=
  ['R', 'E', 'A', 'D', '_', 'M', 'E', 'M', 'O', 'R', 'Y']
/-- `WRITE_MEMORY` -/
def mnWriteMemory : List Char :=
  ['W', 'R', 'I', 'T', 'E', '_', 'M', 'E', 'M', 'O', 'R', 'Y']
/-- `READ_OTP` -/
def mnReadOtp : List Char :=
  ['R', 'E', 'A', 'D', '_', 'O', 'T', 'P']
/-- `READ_LABEL` -/
def mnReadLabel : List Char :=
  ['R', 'E', 'A', 'D', '_', 'L', 'A', 'B', 'E', 'L']
/-- `READ_PRODUCT_NUMBER` -/
def mnReadProductNumber : List Char :=
  ['R', 'E', 'A', 'D', '_', 'P', 'R', 'O', 'D', 'U',
  'C', 'T', '_', 'N', 'U', 'M', 'B', 'E', 'R']
/-- `READ_SERIAL_NUMBER` -/
def mnReadSerialNumber : List Char :=
  ['R', 'E', 'A', 'D', '_', 'S', 'E', 'R', 'I',
  'A', 'L', '_', 'N', 'U', 'M', 'B', 'E', 'R']
/-- `READ_FULLSCALE_LABEL_1` -/
def mnReadFullscaleLabel1 : List Char :=
  ['R', 'E', 'A', 'D', '_', 'F', 'U', 'L', 'L', 'S', 'C',
  'A', 'L', 'E', '_', 'L', 'A', 'B', 'E', 'L', '_', '1']
/-- `READ_FULLSCALE_LABEL_2` -/
def mnReadFullscaleLabel2 : List Char :=
  ['R', 'E', 'A', 'D', '_', 'F', 'U', 'L', 'L', 'S', 'C',
  'A', 'L', 'E', '_', 'L', 'A', 'B', 'E', 'L', '_', '2']
/-- `READ_DEVICE_TYPE` -/
def mnReadDeviceType : List Char :=
  ['R', 'E', 'A', 'D', '_', 'D', 'E', 'V',
  'I', 'C', 'E', '_', 'T', 'Y', 'P', 'E']
/-- `READ_SPEED_CLASS` -/
def mnReadSpeedClass : List Char :=
  ['R', 'E', 'A', 'D', '_', 'S', 'P', 'E',
  'E', 'D', '_', 'C', 'L', 'A', 'S', 'S']
/-- `READ_SRAM_CRC` -/
def mnReadSramCrc : List Char :=
  ['R', 'E', 'A', 'D', '_', 'S', 'R',
  'A', 'M', '_', 'C', 'R', 'C']
/-- `READ_OTP_CRC` -/
def mnReadOtpCrc : List Char :=
  ['R', 'E', 'A', 'D', '_', 'O', 'T', 'P', '_', 'C', 'R', 'C']
/-- `IS_DATA_AVAILABLE` -/
def mnIsDataAvailable : List Char :=
  ['I', 'S', '_', 'D', 'A', 'T', 'A', '_', 'A',
  'V', 'A', 'I', 'L', 'A', 'B', 'L', 'E']
/-- `SET_FULLSCALE` -/
def mnSetFullscale : List Char :=
  ['S', 'E', 'T', '_', 'F', 'U', 'L',
  'L', 'S', 'C', 'A', 'L', 'E']
/-- `SIGN_EXTEND_24` -/
def mnSignExtend24 : List Char :=
  ['S', 'I', 'G', 'N', '_', 'E', 'X',
  'T', 'E', 'N', 'D', '_', '2', '4']
/-- `CONVERT_PRESSURE` -/
def mnConvertPressure : List Char :=
  ['C', 'O', 'N', 'V', 'E', 'R', 'T', '_',
  'P', 'R', 'E', 'S', 'S', 'U', 'R', 'E']
/-- `CONVERT_PRESSURE_STORED` -/
def mnConvertPressureStored : List Char :=
  ['C', 'O', 'N', 'V', 'E', 'R', 'T', '_', 'P', 'R', 'E', 'S',
  'S', 'U', 'R', 'E', '_', 'S', 'T', 'O', 'R', 'E', 'D']
/-- `CONVERT_TEMPERATURE` -/
def mnConvertTemperature : List Char :=
  ['C', 'O', 'N', 'V', 'E', 'R', 'T', '_', 'T', 'E',
  'M', 'P', 'E', 'R', 'A', 'T', 'U', 'R', 'E']

/-- The table of R92, first half: line control, register codec, memory codec. -/
def busCommandTable : List (List Char × (List (List Char) → Except SyntaxError Instr)) :=
  [(mnBegin, noOperand .beginLines),
   (mnSendCommand, oneNat .sendCommand),
   (mnResetSensor, noOperand .resetSensor),
   (mnReadRegister, oneNat .readRegister),
   (mnWriteRegister, twoNats .writeRegister),
   (mnReadMemory, twoNats .readMemory),
   (mnWriteMemory, natAndList .writeMemory),
   (mnReadOtp, twoNats .readOtp),
   (mnReadLabel, twoNats .readLabel)]

/-- The table of R92, the fixed labels and the CRC words. -/
def fixedCommandTable : List (List Char × (List (List Char) → Except SyntaxError Instr)) :=
  [(mnReadProductNumber, noOperand .readProductNumber),
   (mnReadSerialNumber, noOperand .readSerialNumber),
   (mnReadFullscaleLabel1, noOperand .readFullscaleLabel1),
   (mnReadFullscaleLabel2, noOperand .readFullscaleLabel2),
   (mnReadDeviceType, noOperand .readDeviceType),
   (mnReadSpeedClass, noOperand .readSpeedClass),
   (mnReadSramCrc, noOperand .readSramCrc),
   (mnReadOtpCrc, noOperand .readOtpCrc)]

/-- The table of R92, the commands without frames. -/
def valueCommandTable : List (List Char × (List (List Char) → Except SyntaxError Instr)) :=
  [(mnIsDataAvailable, noOperand .isDataAvailable),
   (mnSetFullscale, oneFloat .setFullscale),
   (mnSignExtend24, oneNat .signExtend24),
   (mnConvertPressure, natAndFloat .convertPressure),
   (mnConvertPressureStored, oneNat .convertPressureStored),
   (mnConvertTemperature, oneNat .convertTemperature)]

/-- The whole table of R92. -/
def commandTable : List (List Char × (List (List Char) → Except SyntaxError Instr)) :=
  busCommandTable ++ (fixedCommandTable ++ valueCommandTable)

/-- The operands of a line, none when nothing follows the mnemonic. -/
def operandsOf (rest : List Char) : List (List Char) :=
  if rest = [] then [] else splitOperands false rest

/-- One line: the mnemonic, then operands separated by commas (R92). -/
def readLine (line : List Char) : Except SyntaxError Instr :=
  let cs := trimBlanks line
  let name := cs.takeWhile fun c => !isBlank c
  let rest := trimBlanks (cs.dropWhile fun c => !isBlank c)
  match commandTable.lookup name with
  | some reader => reader (operandsOf rest)
  | none => .error .unknownMnemonic

/-- Read every line that is not blank. -/
def readLines : List (List Char) → Except SyntaxError (List Instr)
  | [] => .ok []
  | l :: ls =>
    if trimBlanks l = [] then readLines ls
    else
      match readLine l with
      | .error e => .error e
      | .ok i =>
        match readLines ls with
        | .error e => .error e
        | .ok is => .ok (i :: is)

/-- A program text: one command a line (R92). -/
def readProgram (text : List Char) : Except SyntaxError (List Instr) := readLines (splitAtChar '\n' text)

/-! ### The host's command syntax: the printer -/

/-- The character of a digit 0 to 15. -/
def digitChar (d : Nat) : Char := if d < 10 then Char.ofNat (48 + d) else Char.ofNat (55 + d)

/-- Decimal digits of n in front of what follows; the first number bounds how many are written. -/
def decimalOnto : (fuel n : Nat) → List Char → List Char
  | 0, _, after => after
  | fuel + 1, n, after =>
    if n < 10 then digitChar n :: after else decimalOnto fuel (n / 10) (digitChar (n % 10) :: after)

/-- A natural in decimal. -/
def printNat (n : Nat) : List Char := decimalOnto (n + 1) n []

/-- The k low hexadecimal digits of a number, most significant first. -/
def printHex : (k n : Nat) → List Char
  | 0, _ => []
  | k + 1, n => digitChar (n / 16 ^ k % 16) :: printHex k n

/-- A binary32 operand as its bit pattern. -/
def printFloat (f : F32) : List Char := ['f', '3', '2', '(', '0', 'x'] ++ printHex 8 f.toNat ++ [')']

/-- Parts with a comma and a blank between them. -/
def joinParts : List (List Char) → List Char
  | [] => []
  | [p] => p
  | p :: ps => p ++ (',' :: ' ' :: joinParts ps)

/-- A byte list in brackets. -/
def printList (ns : List Nat) : List Char := '[' :: (joinParts (ns.map printNat) ++ [']'])

/-- The command's mnemonic (R92). -/
def mnemonicOf : Instr → List Char
  | .beginLines => mnBegin
  | .sendCommand _ => mnSendCommand
  | .resetSensor => mnResetSensor
  | .readRegister _ => mnReadRegister
  | .writeRegister _ _ => mnWriteRegister
  | .readMemory _ _ => mnReadMemory
  | .writeMemory _ _ => mnWriteMemory
  | .readOtp _ _ => mnReadOtp
  | .readLabel _ _ => mnReadLabel
  | .readProductNumber => mnReadProductNumber
  | .readSerialNumber => mnReadSerialNumber
  | .readFullscaleLabel1 => mnReadFullscaleLabel1
  | .readFullscaleLabel2 => mnReadFullscaleLabel2
  | .readDeviceType => mnReadDeviceType
  | .readSpeedClass => mnReadSpeedClass
  | .readSramCrc => mnReadSramCrc
  | .readOtpCrc => mnReadOtpCrc
  | .isDataAvailable => mnIsDataAvailable
  | .setFullscale _ => mnSetFullscale
  | .signExtend24 _ => mnSignExtend24
  | .convertPressure _ _ => mnConvertPressure
  | .convertPressureStored _ => mnConvertPressureStored
  | .convertTemperature _ => mnConvertTemperature

/-- The command's operands as text (R92). -/
def printOperands : Instr → List (List Char)
  | .beginLines => []
  | .sendCommand cmd => [printNat cmd]
  | .resetSensor => []
  | .readRegister reg => [printNat reg]
  | .writeRegister reg value => [printNat reg, printNat value]
  | .readMemory addr n => [printNat addr, printNat n]
  | .writeMemory addr data => [printNat addr, printList data]
  | .readOtp addr n => [printNat addr, printNat n]
  | .readLabel addr len => [printNat addr, printNat len]
  | .readProductNumber => []
  | .readSerialNumber => []
  | .readFullscaleLabel1 => []
  | .readFullscaleLabel2 => []
  | .readDeviceType => []
  | .readSpeedClass => []
  | .readSramCrc => []
  | .readOtpCrc => []
  | .isDataAvailable => []
  | .setFullscale f => [printFloat f]
  | .signExtend24 raw => [printNat raw]
  | .convertPressure raw f => [printNat raw, printFloat f]
  | .convertPressureStored raw => [printNat raw]
  | .convertTemperature raw => [printNat raw]

/-- One command as a line of R92. -/
def printLine (i : Instr) : List Char :=
  match printOperands i with
  | [] => mnemonicOf i
  | ops => mnemonicOf i ++ (' ' :: joinParts ops)

end Sys2Proof
end

