-- ==== Sys2Proof/Machine/Operands.lean ====
section
/-! DEFINITION. What the commands compute from operands and received bytes: result extraction
(spec/30_encoding.md R86), byte orders (20_memory.md R56, R57), the label scan (43_label_crc.md R201), the 24-bit
unpacker and the converters' arithmetic (44_unit_converter.md R231 to R237). -/

namespace Sys2Proof.Machine

/-- Byte k of a frame. -/
def byteAt (bs : List Byte) (k : Nat) : Byte := bs.getD k 0

/-- The result of a register read: `rx[1] << 16 | rx[2] << 8 | rx[3]` in a 32-bit container (R86, R143). -/
def registerValue (rx : List Byte) : Word32 :=
  ((byteAt rx 1).setWidth 32 <<< 16) ||| ((byteAt rx 2).setWidth 32 <<< 8) ||| (byteAt rx 3).setWidth 32

/-- The data bytes of a read span: rx[2] of each frame (R86, R171). -/
def dataBytes (rxs : List (List Byte)) : List Byte := rxs.map fun rx => byteAt rx 2

/-- `LE32`: byte 0 is least significant (R57, R209). -/
def littleEndian32 (bs : List Byte) : Word32 :=
  ((byteAt bs 3).setWidth 32 <<< 24) ||| ((byteAt bs 2).setWidth 32 <<< 16) |||
    ((byteAt bs 1).setWidth 32 <<< 8) ||| (byteAt bs 0).setWidth 32

/-- The bytes before the first zero byte, if there is a zero byte. -/
def beforeZero : List Byte → Option (List Byte)
  | [] => none
  | b :: bs => if b = 0 then some [] else (beforeZero bs).map fun label => b :: label

/-- `LabelScan(buf, n)` (R201). -/
def labelScan (buf : List Byte) (n : Nat) : List Byte := (beforeZero (buf.take n)).getD []

/-- The bytes of `new` written over the first places of a buffer; the other places keep their bytes. -/
def overwrite {n : Nat} (old : Vector Byte n) (new : List Byte) : Vector Byte n :=
  ⟨(List.take n (new ++ old.toList.drop new.length)).toArray, by simp; omega⟩

/-- SIGN_EXTEND_24: shift left by 8 in a 32-bit container, then arithmetic shift right by 8 (R231). -/
def signExtend24 (raw : Nat) : Word32 := (BitVec.ofNat 32 raw <<< 8).sshiftRight 8

/-- The signed reading s of a raw value (R231). -/
def signedReading (raw : Nat) : Int := (signExtend24 raw).toInt

/-- q = binary32(s) / 2097152.0 (R232, R237). -/
def scaledReading (raw : Nat) : F32 := f32OfIntScaled (signedReading raw) Config.scaleLog2

/-- CONVERT_PRESSURE's result: q × f, one binary32 multiplication (R232, R236); `nan` where it is a NaN. -/
def pressureOf (nan : F32) (raw : Nat) (f : F32) : F32 := f32Mul nan (scaledReading raw) f

/-- CONVERT_TEMPERATURE's result: q × 25.0 (R234). -/
def temperatureOf (nan : F32) (raw : Nat) : F32 := f32Mul nan (scaledReading raw) Config.tempSpan

end Sys2Proof.Machine
end

