-- ==== Sys2Proof/Machine/Wire.lean ====
section
/-! DEFINITION. One byte and one frame on the wire (spec/40_transaction.md R112, R118): SPI mode 1, most
significant bit first, the clock idle low, both sides sampling on the trailing edge. Order only, no times
(00_scope.md R7, D1). -/

namespace Sys2Proof.Machine

/-- The lines at one moment of a frame. A data line that no rule gives a level is `none` (log 20). -/
structure LineSample where
  csN : Level
  sclk : Level
  mosi : Option Bool
  miso : Option Bool
  deriving DecidableEq, Repr

/-- The bits of a byte in the order they go out: b[7] first (R112). -/
def msbFirstBits (b : Byte) : List Bool := (List.range 8).map b.getMsbD

/-- The byte made of the bits received: the k-th of eight becomes bit 7-k (R112). -/
def byteOfBits (bits : List Bool) : Byte :=
  bits.foldl (fun acc x => (acc <<< 1) ||| (if x then 1 else 0)) 0

/-- One clock pulse: on the leading (rising) edge both sides put out their bit, and the trailing (falling) edge
follows (R112; the leading edge is G2). -/
def clockPulse (out inp : Bool) : List LineSample :=
  [⟨.low, .high, some out, some inp⟩, ⟨.low, .low, some out, some inp⟩]

/-- The eight pulses of one byte: `b` on MOSI, `m` on MISO (R112). -/
def byteWave (b m : Byte) : List LineSample :=
  ((msbFirstBits b).zip (msbFirstBits m)).flatMap fun x => clockPulse x.1 x.2

/-- The samples at trailing edges, from the clock level before. -/
def atTrailingEdges : Level → List LineSample → List LineSample
  | _, [] => []
  | before, x :: xs =>
    if before = .high ∧ x.sclk = .low then x :: atTrailingEdges x.sclk xs else atTrailingEdges x.sclk xs

/-- The bits that a side sampling MISO on trailing edges receives. -/
def sampledMiso (wave : List LineSample) : List Bool :=
  (atTrailingEdges .low wave).filterMap fun x => x.miso

/-- The bits that a side sampling MOSI on trailing edges receives. -/
def sampledMosi (wave : List LineSample) : List Bool :=
  (atTrailingEdges .low wave).filterMap fun x => x.mosi

/-- `ExchangeByte(b)` (R112) against a sensor that drives the byte `m`: what the framer receives. -/
def exchangeByte (b m : Byte) : Byte := byteOfBits (sampledMiso (byteWave b m))

/-- A whole frame on the wire (R110): chip-select low, the bytes in order, chip-select high. -/
def frameWave (tx rx : List Byte) : List LineSample :=
  ⟨.low, .low, none, none⟩ ::
    ((tx.zip rx).flatMap (fun x => byteWave x.1 x.2) ++ [⟨.high, .low, none, none⟩])

/-- The levels CS_N takes at an event (R110, R118, R260): a frame drives it low, then high; BEGIN drives it high. -/
def eventCsLevels : BusEvent → List CsLevel
  | .began _ _ => [.high]
  | .claim _ _ _ => []
  | .frame _ _ => [.low, .high]
  | .release => []
  | .drdySample _ => []

/-- The levels CS_N takes along a trace. -/
def csLevels (trace : List BusEvent) : List CsLevel := trace.flatMap eventCsLevels

end Sys2Proof.Machine
end

