-- ==== Sys2Proof/Machine/Ops.lean ====
section
/-! DEFINITION. The named operations every command is built from: the environment's answers
(spec/20_memory.md R51), the transaction primitive and the bus claim (40_transaction.md), how a command ends
(60_exceptions.md R282), a refusal (30_encoding.md R95) and BusFailure, the one exception the spec describes
(60_exceptions.md R281). There is no trap entry and no return from one (R285, R286). -/

namespace Sys2Proof.Machine

/-- The answer of a step: the state type and the two reasons are this machine's. -/
abbrev Answer := Host.Outcome State Fault Refusal

/-! ### The environment's answers -/

/-- The k-th answer still to come: one that was given, else a free value. -/
def Feed.look {α : Type} (free : Nat → α) (f : Feed α) (k : Nat) : α := f.given.getD k (free (f.taken + k))

/-- The feed after n answers were taken. -/
def Feed.skip {α : Type} (f : Feed α) (n : Nat) : Feed α := ⟨f.given.drop n, f.taken + n⟩

/-- The k-th byte the sensor will send (R51; log 5). -/
def State.misoAt (s : State) (k : Nat) : Byte := s.env.miso.look Config.freeMiso k

/-- The level the next sample of the data-ready line sees (R261; log 6). -/
def State.drdyNow (s : State) : Level := s.env.drdy.look Config.freeDrdy 0

/-- The bus layer's answer to the next claim (R115; log 7). -/
def State.claimNow (s : State) : ClaimReply := s.env.claims.look Config.freeClaim 0

/-- The bus layer's answer to the k-th Frame or BusRelease still to come (R119, R281; log 7). -/
def State.callAt (s : State) (k : Nat) : CallReply := s.env.calls.look Config.freeCall k

/-- A NaN made of the next free bits (R236, D24; log 13). -/
def State.nanNow (s : State) : F32 := nanOf (Config.freeNan s.env.draws)

/-- k free bytes, for places of FRAME_BUF the spec leaves at any value (I8; logs 9, 10). -/
def State.freeBytes (s : State) (k : Nat) : List Byte := (List.range k).map (Config.freeBufByte s.env.draws)

/-- One free value was drawn. -/
def State.drawn (s : State) : State := { s with env := { s.env with draws := s.env.draws + 1 } }

/-! ### How a command ends (R282) -/

/-- `Ok(result)`: the result goes to the host, the position advances (R22, R282). -/
def State.complete (s : State) (r : Result) : State :=
  { s with outcomes := s.outcomes ++ [.ok r], index := s.index + 1 }

/-- `refuse(reason)` (R95): REFUSED is set and the command recorded (R282); nothing else changes. -/
def State.refuse (s : State) (reason : RefuseReason) (cmd : Instr) : State :=
  { s with refused := true, outcomes := s.outcomes ++ [.refused reason cmd] }

/-- `raise BusFailure` (R281): FAULT is set, the command returns no result; CS_N and BUS are unspecified, so they
take free values (log 9). -/
def State.busFailure (s : State) : State :=
  { s with
    fault := true
    csN := Config.freeCsN s.env.draws
    bus := Config.freeBus s.env.draws
    outcomes := s.outcomes ++ [.busFailure]
    env := { s.env with draws := s.env.draws + 1 } }

/-! ### The bus claim (R115) -/

/-- How a `BusClaim` ends. -/
inductive Claimed where
  | granted (s : State)
  | waiting (s : State)
  | failed (s : State)
  deriving DecidableEq, Repr

/-- The bus layer has answered a claim. -/
def State.claimAsked (s : State) : State := { s with env := { s.env with claims := s.env.claims.skip 1 } }

/-- The claim is granted: BUS is CLAIMED and the event recorded (R115). -/
def State.claimGranted (s : State) : State :=
  { s with bus := .claimed, trace := s.trace ++ [.claim s.sclkHz s.bitOrder s.spiMode] }

/-- `BusClaim()` (R115): wait for the grant, or fail (R281). -/
def busClaim (s : State) : Claimed :=
  match s.claimNow with
  | .granted => .granted s.claimAsked.claimGranted
  | .notYet => .waiting s.claimAsked
  | .fails => .failed s.claimAsked

/-- The bus layer has answered a Frame or BusRelease. -/
def State.callAsked (s : State) : State := { s with env := { s.env with calls := s.env.calls.skip 1 } }

/-- The bus is given back (R115). -/
def State.busReleased (s : State) : State := { s with bus := .released, trace := s.trace ++ [.release] }

/-- `BusRelease()` (R115); `error` holds the state at the bus layer's failure. -/
def busRelease (s : State) : Except State State :=
  match s.callAt 0 with
  | .completes => .ok s.callAsked.busReleased
  | .fails => .error s.callAsked

/-! ### The frame (R110) -/

/-- The bytes received while the bytes tx are sent, one for each (R112, R113). -/
def State.received (s : State) (tx : List Byte) : List Byte :=
  List.zipWith exchangeByte tx ((List.range tx.length).map s.misoAt)

/-- FRAME_BUF after a frame: the received bytes in place of the sent ones (R113); the places a shorter frame leaves
hold any value (I8; log 10). -/
def State.bufferAfter (s : State) (rx : List Byte) : Vector Byte 4 :=
  overwrite s.frameBuf (rx ++ s.freeBytes (4 - rx.length))

/-- A completed frame (R110): chip-select ends high, the bytes are in the buffer, the event is recorded. -/
def State.framed (s : State) (tx rx : List Byte) : State :=
  { s with
    frameBuf := s.bufferAfter rx
    csN := .high
    trace := s.trace ++ [.frame tx rx]
    env := { s.env with miso := s.env.miso.skip rx.length, draws := s.env.draws + 1 } }

/-- A frame the bus layer failed: how far the buffer was overwritten is open (R119, R281; log 9). -/
def State.frameFailed (s : State) : State :=
  { s with
    frameBuf := overwrite s.frameBuf (s.freeBytes 4)
    env := { s.env with draws := s.env.draws + 1 } }

/-- `Frame(tx)` (R110); `error` holds the state at the bus layer's failure. -/
def frame (tx : List Byte) (s : State) : Except State (List Byte × State) :=
  match s.callAt 0 with
  | .completes => .ok (s.received tx, s.callAsked.framed tx (s.received tx))
  | .fails => .error s.callAsked.frameFailed

/-- Frames one after the other (R62, R171): the bytes received in each, or the state at the first failure. -/
def sendFrames : List (List Byte) → State → Except State (List (List Byte) × State)
  | [], s => .ok ([], s)
  | tx :: txs, s =>
    match frame tx s with
    | .error t => .error t
    | .ok (rx, t) =>
      match sendFrames txs t with
      | .error u => .error u
      | .ok (rxs, u) => .ok (rx :: rxs, u)

/-- A bus command's shape (R116, R117): one claim, its frames, one release, then what the command makes of the bytes
received. A claim not yet granted leaves the command waiting (R115; log 8); a failed call is BusFailure (R281). -/
def busCommand (txs : List (List Byte)) (finish : List (List Byte) → State → State) (s : State) : Answer :=
  match busClaim s with
  | .waiting t => .next t
  | .failed t => .next t.busFailure
  | .granted t =>
    match sendFrames txs t with
    | .error u => .next u.busFailure
    | .ok (rxs, u) =>
      match busRelease u with
      | .error v => .next v.busFailure
      | .ok v => .next (finish rxs v)

/-! ### The refusal checks (R95) -/

/-- Check 1: every operand in range. -/
def checkRange (cmd : Instr) (s : State) (act : Answer) : Answer :=
  if cmd.wellFormed then act else .next (s.refuse .operandRange cmd)

/-- Checks 1 and 2: operands in range, then BEGIN has run. -/
def checkStarted (cmd : Instr) (s : State) (act : Answer) : Answer :=
  checkRange cmd s (if s.started then act else .next (s.refuse .notStarted cmd))

/-- Check 3: the OPEN parameter has a value. -/
def withParameter (cmd : Instr) (p : Option Nat) (s : State) (act : Nat → Answer) : Answer :=
  match p with
  | none => .next (s.refuse .parameterOpen cmd)
  | some a => act a

/-! ### Ends of the bus commands -/

/-- The received bytes are discarded (R86). -/
def finishUnit (_ : List (List Byte)) (s : State) : State := s.complete .unit

/-- A register value from the one frame (R143). -/
def finishRegister (rxs : List (List Byte)) (s : State) : State :=
  s.complete (.uint32 (registerValue (rxs.headD [])))

/-- The data bytes of a span (R171). -/
def finishBytes (rxs : List (List Byte)) (s : State) : State := s.complete (.bytes (dataBytes rxs))

/-- The data bytes stand in LABEL_BUF (R200). -/
def State.withLabel (s : State) (bytes : List Byte) : State := { s with labelBuf := overwrite s.labelBuf bytes }

/-- The data bytes go into LABEL_BUF, which is scanned (R200, R201). -/
def finishLabel (rxs : List (List Byte)) (s : State) : State :=
  let t := s.withLabel (dataBytes rxs)
  t.complete (.label (labelScan t.labelBuf.toList rxs.length))

/-- The four data bytes as a little-endian word (R209). -/
def finishCrc (rxs : List (List Byte)) (s : State) : State :=
  s.complete (.uint32 (littleEndian32 (dataBytes rxs)))

/-- READ_LABEL after its checks (R200): the length is clamped to 32. -/
def labelCommand (addr len : Nat) (s : State) : Answer :=
  busCommand (spanFrames .mainRead addr (placeholders (min len Config.labelMax))) finishLabel s

/-! ### Lines -/

/-- BEGIN's writes (R260). -/
def State.begun (s : State) : State :=
  { s with csN := .high, started := true, trace := s.trace ++ [.began s.csLine s.rdyLine] }

/-- `ReadDRDY()` and its event (R261). -/
def State.sampled (s : State) : State :=
  { s with
    trace := s.trace ++ [.drdySample s.drdyNow]
    env := { s.env with drdy := s.env.drdy.skip 1 } }

/-- SET_FULLSCALE's write, bit-exact (R235). -/
def State.withFullscale (s : State) (f : F32) : State := { s with fullscale := f }

/-- How the run ended by a refusal, as recorded (R282). -/
def State.lastRefusal (s : State) : Refusal :=
  match s.outcomes.getLast? with
  | some (.refused .operandRange _) => .operandRange
  | some (.refused .notStarted _) => .notStarted
  | some (.refused .parameterOpen _) => .parameterOpen
  | _ => .unrecorded

/-- The command is placed where the host's next command stands (R22; log 1). -/
def State.placeCommand (s : State) (i : Instr) : State :=
  if s.index < s.program.length then { s with program := s.program.set s.index i }
  else { s with program := s.program ++ [i], index := s.program.length }

end Sys2Proof.Machine
end

