-- ==== Sys2Proof/Machine/Convert.lean ====
section
/-! DEFINITION. The unpacker and the unit converter (spec/44_unit_converter.md): no claim, no frame, no BEGIN needed. -/

namespace Sys2Proof.Machine

/-- SET_FULLSCALE (R235). -/
def execSetFullscale (f : F32) (s : State) : Answer :=
  checkRange (.setFullscale f) s (.next ((s.withFullscale f).complete .unit))

/-- SIGN_EXTEND_24 (R231). -/
def execSignExtend24 (raw : Nat) (s : State) : Answer :=
  checkRange (.signExtend24 raw) s (.next (s.complete (.int32 (signExtend24 raw))))

/-- CONVERT_PRESSURE (R232). -/
def execConvertPressure (raw : Nat) (f : F32) (s : State) : Answer :=
  checkRange (.convertPressure raw f) s (.next (s.drawn.complete (.binary32 (pressureOf s.nanNow raw f))))

/-- CONVERT_PRESSURE_STORED (R233). -/
def execConvertPressureStored (raw : Nat) (s : State) : Answer :=
  checkRange (.convertPressureStored raw) s
    (.next (s.drawn.complete (.binary32 (pressureOf s.nanNow raw s.fullscale))))

/-- CONVERT_TEMPERATURE (R234). -/
def execConvertTemperature (raw : Nat) (s : State) : Answer :=
  checkRange (.convertTemperature raw) s (.next (s.drawn.complete (.binary32 (temperatureOf s.nanNow raw))))

end Sys2Proof.Machine
end

