-- ==== Sys2Proof/Machine/Label.lean ====
section
/-! DEFINITION. The label reader and the CRC accessors (spec/43_label_crc.md). -/

namespace Sys2Proof.Machine

/-- READ_LABEL (R200). -/
def execReadLabel (addr len : Nat) (s : State) : Answer :=
  checkStarted (.readLabel addr len) s (labelCommand addr len s)

/-- READ_PRODUCT_NUMBER (R202). -/
def execReadProductNumber (s : State) : Answer :=
  checkStarted .readProductNumber s
    (withParameter .readProductNumber s.params.labelProductNumber s
      fun a => labelCommand a Config.longLabelLength s)

/-- READ_SERIAL_NUMBER (R203). -/
def execReadSerialNumber (s : State) : Answer :=
  checkStarted .readSerialNumber s
    (withParameter .readSerialNumber s.params.labelSerialNumber s
      fun a => labelCommand a Config.longLabelLength s)

/-- READ_FULLSCALE_LABEL_1 (R204). -/
def execReadFullscaleLabel1 (s : State) : Answer :=
  checkStarted .readFullscaleLabel1 s
    (withParameter .readFullscaleLabel1 s.params.labelFullscale1 s
      fun a => labelCommand a Config.shortLabelLength s)

/-- READ_FULLSCALE_LABEL_2 (R205). -/
def execReadFullscaleLabel2 (s : State) : Answer :=
  checkStarted .readFullscaleLabel2 s
    (withParameter .readFullscaleLabel2 s.params.labelFullscale2 s
      fun a => labelCommand a Config.shortLabelLength s)

/-- READ_DEVICE_TYPE (R206). -/
def execReadDeviceType (s : State) : Answer :=
  checkStarted .readDeviceType s
    (withParameter .readDeviceType s.params.labelDeviceType s
      fun a => labelCommand a Config.shortLabelLength s)

/-- READ_SPEED_CLASS (R207). -/
def execReadSpeedClass (s : State) : Answer :=
  checkStarted .readSpeedClass s
    (withParameter .readSpeedClass s.params.labelSpeedClass s
      fun a => labelCommand a Config.shortLabelLength s)

/-- READ_SRAM_CRC (R210). -/
def execReadSramCrc (s : State) : Answer :=
  checkStarted .readSramCrc s
    (withParameter .readSramCrc s.params.sramCrc s
      fun a => busCommand (spanFrames .mainRead a (placeholders Config.crcLength)) finishCrc s)

/-- READ_OTP_CRC (R211). -/
def execReadOtpCrc (s : State) : Answer :=
  checkStarted .readOtpCrc s
    (withParameter .readOtpCrc s.params.otpCrc s
      fun a => busCommand (spanFrames .otpRead a (placeholders Config.crcLength)) finishCrc s)

end Sys2Proof.Machine
end

