-- ==== Sys2Proof/Machine/Lines.lean ====
section
/-! DEFINITION. Line control: BEGIN and IS_DATA_AVAILABLE (spec/45_control_lines.md). -/

namespace Sys2Proof.Machine

/-- BEGIN (R260): configure the lines, drive chip-select high, record the event. -/
def execBegin (s : State) : Answer :=
  checkRange .beginLines s (.next (s.begun.complete .unit))

/-- IS_DATA_AVAILABLE (R261): sample the line once; true when it is low. -/
def execIsDataAvailable (s : State) : Answer :=
  checkStarted .isDataAvailable s (.next (s.sampled.complete (.bool (dataReady s.drdyNow))))

end Sys2Proof.Machine
end

