-- ==== Sys2Proof/Machine/Memory.lean ====
section
/-! DEFINITION. The addressed memory codec (spec/42_memory_codec.md): a span of n bytes is n frames in one claim. -/

namespace Sys2Proof.Machine

/-- READ_MEMORY (R172). -/
def execReadMemory (addr n : Nat) (s : State) : Answer :=
  checkStarted (.readMemory addr n) s
    (busCommand (spanFrames .mainRead addr (placeholders n)) finishBytes s)

/-- WRITE_MEMORY (R173). -/
def execWriteMemory (addr : Nat) (data : List Nat) (s : State) : Answer :=
  checkStarted (.writeMemory addr data) s
    (busCommand (spanFrames .mainWrite addr (data.map byteOf)) finishUnit s)

/-- READ_OTP (R174). -/
def execReadOtp (addr n : Nat) (s : State) : Answer :=
  checkStarted (.readOtp addr n) s
    (busCommand (spanFrames .otpRead addr (placeholders n)) finishBytes s)

end Sys2Proof.Machine
end

