-- ==== Sys2Proof/Machine/Register.lean ====
section
/-! DEFINITION. The register codec (spec/41_register_codec.md): one frame in one claim for each command. -/

namespace Sys2Proof.Machine

/-- SEND_COMMAND (R141). -/
def execSendCommand (cmd : Nat) (s : State) : Answer :=
  checkStarted (.sendCommand cmd) s (busCommand [commandFrame cmd] finishUnit s)

/-- RESET_SENSOR (R142): the frame of SEND_COMMAND 0x88. -/
def execResetSensor (s : State) : Answer :=
  checkStarted .resetSensor s (busCommand [commandFrame Config.resetCommand] finishUnit s)

/-- READ_REGISTER (R143). -/
def execReadRegister (reg : Nat) (s : State) : Answer :=
  checkStarted (.readRegister reg) s (busCommand [regReadFrame reg] finishRegister s)

/-- WRITE_REGISTER (R144). -/
def execWriteRegister (reg value : Nat) (s : State) : Answer :=
  checkStarted (.writeRegister reg value) s (busCommand [regWriteFrame reg value] finishUnit s)

end Sys2Proof.Machine
end

