-- ==== Sys2Proof/Machine/Dispatch.lean ====
section
/-! DEFINITION. The meaning of every command: one arm per constructor of Instr. -/

namespace Sys2Proof.Machine

def exec (i : Instr) (s : State) : Host.Outcome State Fault Refusal :=
  match i with
  | .beginLines => Sys2Proof.Machine.execBegin s
  | .sendCommand cmd => Sys2Proof.Machine.execSendCommand cmd s
  | .resetSensor => Sys2Proof.Machine.execResetSensor s
  | .readRegister reg => Sys2Proof.Machine.execReadRegister reg s
  | .writeRegister reg value => Sys2Proof.Machine.execWriteRegister reg value s
  | .readMemory addr n => Sys2Proof.Machine.execReadMemory addr n s
  | .writeMemory addr data => Sys2Proof.Machine.execWriteMemory addr data s
  | .readOtp addr n => Sys2Proof.Machine.execReadOtp addr n s
  | .readLabel addr len => Sys2Proof.Machine.execReadLabel addr len s
  | .readProductNumber => Sys2Proof.Machine.execReadProductNumber s
  | .readSerialNumber => Sys2Proof.Machine.execReadSerialNumber s
  | .readFullscaleLabel1 => Sys2Proof.Machine.execReadFullscaleLabel1 s
  | .readFullscaleLabel2 => Sys2Proof.Machine.execReadFullscaleLabel2 s
  | .readDeviceType => Sys2Proof.Machine.execReadDeviceType s
  | .readSpeedClass => Sys2Proof.Machine.execReadSpeedClass s
  | .readSramCrc => Sys2Proof.Machine.execReadSramCrc s
  | .readOtpCrc => Sys2Proof.Machine.execReadOtpCrc s
  | .isDataAvailable => Sys2Proof.Machine.execIsDataAvailable s
  | .setFullscale f => Sys2Proof.Machine.execSetFullscale f s
  | .signExtend24 raw => Sys2Proof.Machine.execSignExtend24 raw s
  | .convertPressure raw f => Sys2Proof.Machine.execConvertPressure raw f s
  | .convertPressureStored raw => Sys2Proof.Machine.execConvertPressureStored raw s
  | .convertTemperature raw => Sys2Proof.Machine.execConvertTemperature raw s

end Sys2Proof.Machine
end

