-- ==== Sys2Proof/Machine/Step.lean ====
section
/-! DEFINITION. One step of the framer (spec/00_scope.md R6, R12; 10_state.md R22; 60_exceptions.md R286). -/

namespace Sys2Proof.Machine

/-- One step. A run that met a fault or a refusal gives no further step (R12, R286; log 3); when the host's list is
exhausted the framer does nothing (R121; log 2); otherwise the command at the position runs (R22). -/
def step (s : State) : Host.Outcome State Fault Refusal :=
  if s.fault then .fault .busFailure
  else if s.refused then .refused s.lastRefusal
  else
    match s.program[s.index]? with
    | none => .next s
    | some i => exec i s

/-- The state with the command that the wire decoder reads from a frame of nbits bits placed as the host's next
command (log 15); the same state where the decoder reads no command. -/
def State.withFetchWord (s : State) (nbits w : Nat) : State :=
  match decodeTableWord nbits w with
  | some i => s.placeCommand i
  | none => s

end Sys2Proof.Machine
end

