-- ==== Sys2Proof/Safety.lean ====
section
/-! DEFINITION. The terms in which claims about the framer are stated: which checks a command must pass
(spec/30_encoding.md R95), what a run's end is (00_scope.md R12), how a command may leave the state
(60_exceptions.md R281, R282), the invariants of the trace (40_transaction.md R111, R116 to R121) and the reals that
binary32 patterns stand for (44_unit_converter.md R230). The machine calls none of these. -/

namespace Sys2Proof

/-- The command is refused until BEGIN has run: a bus command or IS_DATA_AVAILABLE (R95, check 2; R312). -/
def Instr.needsBegin : Instr → Bool
  | .beginLines => false
  | .sendCommand _ => true
  | .resetSensor => true
  | .readRegister _ => true
  | .writeRegister _ _ => true
  | .readMemory _ _ => true
  | .writeMemory _ _ => true
  | .readOtp _ _ => true
  | .readLabel _ _ => true
  | .readProductNumber => true
  | .readSerialNumber => true
  | .readFullscaleLabel1 => true
  | .readFullscaleLabel2 => true
  | .readDeviceType => true
  | .readSpeedClass => true
  | .readSramCrc => true
  | .readOtpCrc => true
  | .isDataAvailable => true
  | .setFullscale _ => false
  | .signExtend24 _ => false
  | .convertPressure _ _ => false
  | .convertPressureStored _ => false
  | .convertTemperature _ => false

/-- The command claims the bus (R95, check 2, less IS_DATA_AVAILABLE). -/
def Instr.isBusCommand (i : Instr) : Bool := i.needsBegin && decide (i ≠ .isDataAvailable)

/-- The OPEN parameter the command needs, if it needs one (R95, check 3). -/
def Instr.openParameter (p : OpenParams) : Instr → Option (Option Nat)
  | .beginLines => none
  | .sendCommand _ => none
  | .resetSensor => none
  | .readRegister _ => none
  | .writeRegister _ _ => none
  | .readMemory _ _ => none
  | .writeMemory _ _ => none
  | .readOtp _ _ => none
  | .readLabel _ _ => none
  | .readProductNumber => some p.labelProductNumber
  | .readSerialNumber => some p.labelSerialNumber
  | .readFullscaleLabel1 => some p.labelFullscale1
  | .readFullscaleLabel2 => some p.labelFullscale2
  | .readDeviceType => some p.labelDeviceType
  | .readSpeedClass => some p.labelSpeedClass
  | .readSramCrc => some p.sramCrc
  | .readOtpCrc => some p.otpCrc
  | .isDataAvailable => none
  | .setFullscale _ => none
  | .signExtend24 _ => none
  | .convertPressure _ _ => none
  | .convertPressureStored _ => none
  | .convertTemperature _ => none

/-- The command passes every check of R95 in a state: operands in range, BEGIN has run where it must have, the
address it needs has a value. -/
def Instr.admitted (i : Instr) (s : Machine.State) : Prop :=
  i.wellFormed = true ∧ (i.needsBegin = true → s.started = true) ∧ i.openParameter s.params ≠ some none

namespace Machine

/-! ### Runs -/

/-- The host's list is exhausted with both marks false: the successful end of a run (R12, D34). -/
def State.succeeded (s : State) : Prop := s.program.length ≤ s.index ∧ s.fault = false ∧ s.refused = false

/-- A recorded outcome's result, if it completed. -/
def resultOf : CmdOutcome → Option Result
  | .ok r => some r
  | .busFailure => none
  | .refused _ _ => none

/-- The results returned to the host, in order (R12). -/
def State.results (s : State) : List Result := s.outcomes.filterMap resultOf

/-! ### What the environment does -/

/-- The bus layer completes the next n calls (Frame or BusRelease). -/
def State.callsComplete (s : State) (n : Nat) : Prop := ∀ k, k < n → s.callAt k = .completes

/-- The bus layer grants the next claim and completes the n frames and the release that follow it. -/
def State.busServes (s : State) (n : Nat) : Prop := s.claimNow = .granted ∧ s.callsComplete (n + 1)

/-- What the sensor sends during the frames, one byte for each byte sent, from the k-th byte to come. -/
def State.answersFrom (s : State) : Nat → List (List Byte) → List (List Byte)
  | _, [] => []
  | k, tx :: txs => (List.range tx.length).map (fun j => s.misoAt (k + j)) :: s.answersFrom (k + tx.length) txs

/-- What the sensor sends during the frames a command is about to send. -/
def State.answers (s : State) (txs : List (List Byte)) : List (List Byte) := s.answersFrom 0 txs

/-- The frame events of the frames sent and received. -/
def frameEvents (txs rxs : List (List Byte)) : List BusEvent := List.zipWith BusEvent.frame txs rxs

/-- The claim event of this framer (R115). -/
def State.claimEvent (s : State) : BusEvent := .claim s.sclkHz .msbFirst .mode1

/-! ### What a command leaves -/

/-- Construction parameters, constants, OPEN parameters and the host's list are the same (R23 to R27, R28). -/
def State.sameConfig (s t : State) : Prop :=
  t.csLine = s.csLine ∧ t.rdyLine = s.rdyLine ∧ t.sclkHz = s.sclkHz ∧ t.bitOrder = s.bitOrder ∧
    t.spiMode = s.spiMode ∧ t.params = s.params ∧ t.program = s.program

/-- The state after a refusal: REFUSED set and the command recorded, nothing else (R95, R282). -/
def State.afterRefusal (s : State) (reason : RefuseReason) (i : Instr) : State :=
  { s with refused := true, outcomes := s.outcomes ++ [.refused reason i] }

/-- The state while a claim is not granted: nothing but the environment's answers has moved (R115). -/
def State.afterWait (s : State) : State := { s with env := { s.env with claims := s.env.claims.skip 1 } }

/-- How a BusFailure leaves the state (R281): FAULT set, no result, the events before the failing call appended, the
position not advanced; CS_N, BUS and FRAME_BUF are not constrained, everything else is as it was. -/
def State.failedTo (s t : State) (events : List BusEvent) : Prop :=
  t.fault = true ∧ t.trace = s.trace ++ events ∧ t.outcomes = s.outcomes ++ [.busFailure] ∧ t.index = s.index ∧
    s.sameConfig t ∧ t.fullscale = s.fullscale ∧ t.started = s.started ∧ t.refused = s.refused ∧
    t.labelBuf = s.labelBuf

/-- FRAME_BUF after frames that received rxs: the last frame's bytes stand in its first places (R113); untouched by
no frame. -/
def State.bufferHolds (s t : State) (rxs : List (List Byte)) : Prop :=
  match rxs.getLast? with
  | none => t.frameBuf = s.frameBuf
  | some rx => t.frameBuf.toList.take rx.length = rx

/-- LABEL_BUF after a command: written from its first place on, or untouched (R30). -/
def State.labelHolds (s t : State) : Option (List Byte) → Prop
  | none => t.labelBuf = s.labelBuf
  | some bytes => t.labelBuf.toList = bytes ++ s.labelBuf.toList.drop bytes.length

/-- The answers of the environment that a served bus command takes: one for its claim, one for each frame and the
release, one byte for each byte sent; the data-ready line is not sampled (R37, R113, R115). -/
def State.answersTaken (s t : State) (txs : List (List Byte)) : Prop :=
  t.env.claims = s.env.claims.skip 1 ∧ t.env.calls = s.env.calls.skip (txs.length + 1) ∧
    t.env.miso = s.env.miso.skip (txs.map List.length).sum ∧ t.env.drdy = s.env.drdy

/-- How a bus command that completes leaves the state: its trace is one Claim, its frames, one Release (R116, R117),
its result goes to the host and the position advances (R22, R282), BUS is RELEASED and CS_N high once a frame was
sent (R118, R121), and everything else is as it was. -/
def State.servedTo (s t : State) (txs : List (List Byte)) (r : Result) (label : Option (List Byte)) : Prop :=
  t.trace = s.trace ++ ([s.claimEvent] ++ frameEvents txs (s.answers txs) ++ [.release]) ∧
    t.outcomes = s.outcomes ++ [.ok r] ∧ t.index = s.index + 1 ∧ t.bus = .released ∧
    t.csN = (if txs = [] then s.csN else .high) ∧ s.bufferHolds t (s.answers txs) ∧ s.labelHolds t label ∧
    s.sameConfig t ∧ t.fullscale = s.fullscale ∧ t.started = s.started ∧ t.fault = s.fault ∧ t.refused = s.refused ∧
    s.answersTaken t txs

/-- A bus command that passed the checks, once the bus layer has answered its claim: it completes as `servedTo` says
where the bus layer serves it, and it ends in BusFailure where the claim, its k-th frame or its release fails, with
the events before the failing call (R281). What happens while a claim is not granted is stated apart (log 8). -/
def State.busBehaviour (i : Instr) (s : State) (txs : List (List Byte)) (r : Result) (label : Option (List Byte)) :
    Prop :=
  (s.busServes txs.length → ∃ t, exec i s = .next t ∧ s.servedTo t txs r label) ∧
  (s.claimNow = .fails → ∃ t, exec i s = .next t ∧ s.failedTo t []) ∧
  (∀ k, k < txs.length → s.claimNow = .granted → s.callsComplete k → s.callAt k = .fails →
    ∃ t, exec i s = .next t ∧ s.failedTo t (s.claimEvent :: frameEvents (txs.take k) (s.answers (txs.take k)))) ∧
  (s.claimNow = .granted → s.callsComplete txs.length → s.callAt txs.length = .fails →
    ∃ t, exec i s = .next t ∧ s.failedTo t (s.claimEvent :: frameEvents txs (s.answers txs)))

/-- The rule of a bus command without an OPEN parameter, its operands in range (R95, R116, R117, R281): refused until
BEGIN has run; after it, `busBehaviour` with these frames, the result and the LABEL_BUF bytes it makes of the answers. -/
def busRule (i : Instr) (txs : List (List Byte)) (result : List (List Byte) → Result)
    (label : List (List Byte) → Option (List Byte)) : Prop :=
  ∀ s : State,
    (s.started = false → exec i s = .next (s.afterRefusal .notStarted i)) ∧
    (s.started = true → s.busBehaviour i txs (result (s.answers txs)) (label (s.answers txs)))

/-- The rule of a bus command at an OPEN address (R95, check 3): as `busRule`, refused also while the address has no
value. -/
def openRule (i : Instr) (parameter : OpenParams → Option Nat) (txs : Nat → List (List Byte))
    (result : List (List Byte) → Result) (label : List (List Byte) → Option (List Byte)) : Prop :=
  ∀ s : State,
    (s.started = false → exec i s = .next (s.afterRefusal .notStarted i)) ∧
    (s.started = true → parameter s.params = none → exec i s = .next (s.afterRefusal .parameterOpen i)) ∧
    (∀ a, s.started = true → parameter s.params = some a →
      s.busBehaviour i (txs a) (result (s.answers (txs a))) (label (s.answers (txs a))))

/-- LABEL_BUF is not written. -/
def noLabel (_ : List (List Byte)) : Option (List Byte) := none

/-- The data bytes of a span: the third byte of each answer (R86). -/
def thirdBytes (rxs : List (List Byte)) : List Byte := rxs.map fun rx => byteAt rx 2

/-- The bytes before the first zero byte; none of them where no byte is zero (R201). -/
def zeroTerminated (bytes : List Byte) : List Byte :=
  if (0 : Byte) ∈ bytes then bytes.takeWhile (fun b => b ≠ 0) else []

/-- n main-memory read frames from address a on, written out from the bit pattern of R83. -/
def mainReads (a n : Nat) : List (List Byte) :=
  (List.range n).map fun k => [byteOf (0x10 + (a + k) / 256 % 16), byteOf ((a + k) % 256), 0]

/-- n OTP read frames from address a on, written out from the bit pattern of R83. -/
def otpReads (a n : Nat) : List (List Byte) :=
  (List.range n).map fun k => [byteOf (0x20 + (a + k) / 256 % 32), byteOf ((a + k) % 256), 0]

/-- The main-memory write frames of a list of data bytes from address a on, written out from R83. -/
def mainWrites (a : Nat) (data : List Nat) : List (List Byte) :=
  (List.range data.length).map fun k =>
    [byteOf (0x90 + (a + k) / 256 % 16), byteOf ((a + k) % 256), byteOf (data.getD k 0)]

/-- The rule of a label accessor: READ_LABEL at its OPEN address with its fixed length (R202 to R207). -/
def labelRule (i : Instr) (parameter : OpenParams → Option Nat) (n : Nat) : Prop :=
  openRule i parameter (fun a => mainReads a n) (fun rxs => .label (zeroTerminated (thirdBytes rxs)))
    (fun rxs => some (thirdBytes rxs))

/-- Four bytes as a little-endian number (R209). -/
def littleEndianNumber (bs : List Byte) : Nat :=
  (byteAt bs 3).toNat * 2 ^ 24 + (byteAt bs 2).toNat * 2 ^ 16 + (byteAt bs 1).toNat * 2 ^ 8 + (byteAt bs 0).toNat

/-- How a converter leaves the state: its result goes to the host, the position advances, and nothing else has moved
but the count of free values drawn (log 13). -/
def State.answeredTo (s t : State) (r : Result) : Prop :=
  ∃ n, t = { s with
    outcomes := s.outcomes ++ [.ok r], index := s.index + 1, env := { s.env with draws := n } }

/-! ### Invariants of the trace -/

/-- What an event does to the bus claim; `none` where the event may not happen (R115, R120). -/
def nextClaim : BusState → BusEvent → Option BusState
  | .released, .claim _ _ _ => some .claimed
  | .released, .began _ _ => some .released
  | .released, .drdySample _ => some .released
  | .released, .frame _ _ => none
  | .released, .release => none
  | .claimed, .frame _ _ => some .claimed
  | .claimed, .release => some .released
  | .claimed, .claim _ _ _ => none
  | .claimed, .began _ _ => none
  | .claimed, .drdySample _ => none

/-- The bus claim after a trace, `none` if some event of it may not happen where it stands. -/
def claimAfter : BusState → List BusEvent → Option BusState
  | b, [] => some b
  | b, e :: es =>
    match nextClaim b e with
    | none => none
    | some b' => claimAfter b' es

/-- Between commands: every frame of the trace lies in a claim, no claim is nested (R120), and unless the run ended
in a BusFailure the bus is released and chip-select idles high once BEGIN has run, undriven before (R31, R32, R121). -/
def State.busDiscipline (s : State) : Prop :=
  (claimAfter .released s.trace).isSome = true ∧
    (s.fault = false → claimAfter .released s.trace = some .released ∧ s.bus = .released ∧
      s.csN = if s.started then .high else .z)

/-- The frames the framer ever sends, by length and byte0 (R80, R87, R88, R89, R111). -/
def legalFrame (tx : List Byte) : Prop :=
  tx.length = 1 ∨
  (tx.length = 3 ∧ ((0x10 ≤ (byteAt tx 0).toNat ∧ (byteAt tx 0).toNat ≤ 0x3F) ∨
    (0x90 ≤ (byteAt tx 0).toNat ∧ (byteAt tx 0).toNat ≤ 0x9F))) ∨
  (tx.length = 4 ∧ ((0x40 ≤ (byteAt tx 0).toNat ∧ (byteAt tx 0).toNat ≤ 0x7F) ∨ 0xC0 ≤ (byteAt tx 0).toNat))

/-- An event this framer may record: a legal frame that received one byte for each it sent (R113), a claim with the
configured clock (R115), a BEGIN with the configured lines (R260). -/
def State.eventLegal (s : State) : BusEvent → Prop
  | .began cs rdy => cs = s.csLine ∧ rdy = s.rdyLine
  | .claim hz _ _ => hz = s.sclkHz
  | .frame tx rx => legalFrame tx ∧ rx.length = tx.length
  | .release => True
  | .drdySample _ => True

/-- Every event of the trace is one this framer may record. -/
def State.traceLegal (s : State) : Prop := ∀ e ∈ s.trace, s.eventLegal e

/-- The outcome says that the command was refused. -/
def isRefusal : CmdOutcome → Bool
  | .ok _ => false
  | .busFailure => false
  | .refused _ _ => true

/-- The record of outcomes agrees with the marks and with the position: one result for each completed command, FAULT
exactly when a BusFailure is recorded, REFUSED exactly when a refusal is (R22, R35, R282). -/
def State.outcomesAgree (s : State) : Prop :=
  s.results.length = s.index ∧ (s.fault = true ↔ CmdOutcome.busFailure ∈ s.outcomes) ∧
    (s.refused = true ↔ ∃ o ∈ s.outcomes, isRefusal o = true)

/-! ### binary32 -/

/-- The magnitude of a finite pattern as a rational number. -/
def f32Magnitude (x : F32) : ℚ := (f32Sig x : ℚ) * (2 : ℚ) ^ f32Scale x

/-- The number a finite pattern stands for. -/
def f32Real (x : F32) : ℚ := if f32Neg x then -f32Magnitude x else f32Magnitude x

/-- `x` is ±v rounded to binary32 as R230 says: infinity from 2^128 - 2^103 on, else a finite pattern nearest to the
magnitude v, with an even significand where another finite pattern is as near. -/
def isRounded (x : F32) (neg : Bool) (v : ℚ) : Prop :=
  f32Neg x = neg ∧
  (2 ^ 128 - 2 ^ 103 ≤ v → f32IsInf x = true) ∧
  (v < 2 ^ 128 - 2 ^ 103 →
    f32IsFinite x = true ∧
      ∀ y : F32, f32IsFinite y = true →
        |f32Magnitude x - v| ≤ |f32Magnitude y - v| ∧
        (|f32Magnitude x - v| = |f32Magnitude y - v| → f32Magnitude y ≠ f32Magnitude x → f32Sig x % 2 = 0))

/-- The signed reading as a number: the low 24 bits, less 2^24 where bit 23 is set (R231). -/
def reading24 (raw : Nat) : Int :=
  if raw % 2 ^ 24 < 2 ^ 23 then (raw % 2 ^ 24 : Nat) else ((raw % 2 ^ 24 : Nat) : Int) - 2 ^ 24

/-- `x` is what a converter returns for the reading s and the factor f: the real q × f with q = s / 2^21, rounded once,
where f is finite (R232, R237), with the sign rule and the special values of R236; any NaN where the result is a NaN. -/
def isConverted (x : F32) (s : Int) (f : F32) : Prop :=
  (f32IsNaN f = true → f32IsNaN x = true) ∧
  (f32IsInf f = true → s = 0 → f32IsNaN x = true) ∧
  (f32IsInf f = true → s ≠ 0 → f32IsInf x = true ∧ f32Neg x = (decide (s < 0) != f32Neg f)) ∧
  (f32IsFinite f = true →
    isRounded x (decide (s < 0) != f32Neg f) ((s.natAbs : ℚ) * f32Magnitude f / 2 ^ 21))

end Machine

end Sys2Proof
end

