-- ==== Sys2Proof/Certificates/Slice0/Obligations.lean ====
section
/-! DEFINITION. The statements about the model, each the formal reading of numbered rules of spec/. -/

open Sys2Proof Sys2Proof.Machine

/-! ### Reset and the step -/

/-- R310: every field the table gives a value for, at reset (FRAME_BUF and LABEL_BUF, "unspecified", are left out). -/
def Obligations.ResetHoldsTheTableOfDefaults : Prop :=
  State.reset.csLine = 10 ∧ State.reset.rdyLine = 7 ∧ State.reset.sclkHz.hz = 4000000 ∧
    State.reset.fullscale = 0x00000000 ∧ State.reset.bitOrder = .msbFirst ∧ State.reset.spiMode = .mode1 ∧
    State.reset.bus = .released ∧ State.reset.csN = .z ∧ State.reset.started = false ∧
    State.reset.fault = false ∧ State.reset.refused = false ∧ State.reset.trace = []

/-- R311: the four construction parameters are the reset inputs; with the defaults 10, 7, 4,000,000 and 0 construction
is reset. -/
def Obligations.ConstructionTakesItsParameters : Prop :=
  (∀ (cs rdy : Nat) (hz : ClockHz) (f : F32) (p : OpenParams),
    (State.construct cs rdy hz f p).csLine = cs ∧ (State.construct cs rdy hz f p).rdyLine = rdy ∧
    (State.construct cs rdy hz f p).sclkHz = hz ∧ (State.construct cs rdy hz f p).fullscale = f) ∧
  State.construct 10 7 ⟨4000000, by decide⟩ 0x00000000 State.reset.params = State.reset

/-- A step runs the command at the host's position (R22). The model's choices, since R22 says that the framer fetches
nothing: that the host's list and position are fields of State, filled from outside (log 1), and that
`State.withFetchWord` places there the command the wire decoder reads from a frame's word (log 15). -/
def Obligations.StepRunsTheCommandAtThePosition : Prop :=
  (∀ (s : State) (i : Instr), s.fault = false → s.refused = false → s.program[s.index]? = some i → step s = exec i s) ∧
  (∀ (s : State) (nbits w : Nat) (i : Instr), s.fault = false → s.refused = false → decodeTableWord nbits w = some i →
    ∃ t, s.withFetchWord nbits w = t ∧ step t = exec i t ∧ t = { s with program := t.program, index := t.index })

/-- A run that met a fault or a refusal gives no next state (R12, R286); an exhausted list leaves the framer idle
(R121). The model's choices: that a refusal and a failure are marks on which the next step stops (log 3), and that an
idle step repeats the state (log 2). -/
def Obligations.EndedRunsDoNotContinue : Prop :=
  (∀ s : State, s.fault = true → step s = .fault .busFailure) ∧
  (∀ s : State, s.fault = false → s.refused = true → ∃ r, step s = .refused r) ∧
  (∀ (s : State) (i : Instr), s.fault = false →
    step (s.afterRefusal .operandRange i) = .refused .operandRange ∧
    step (s.afterRefusal .notStarted i) = .refused .notStarted ∧
    step (s.afterRefusal .parameterOpen i) = .refused .parameterOpen) ∧
  (∀ s : State, s.fault = false → s.refused = false → s.program.length ≤ s.index → step s = .next s)

/-! ### Refusals, failures and marks -/

/-- R95: the three checks in their order; a refused command sets REFUSED (and is recorded, R282), does nothing else,
and its run ends there: no step follows. -/
def Obligations.RefusalChecksInOrder : Prop :=
  ∀ (i : Instr) (s : State),
    (i.wellFormed = false → exec i s = .next (s.afterRefusal .operandRange i)) ∧
    (i.wellFormed = true → i.needsBegin = true → s.started = false →
      exec i s = .next (s.afterRefusal .notStarted i)) ∧
    (i.wellFormed = true → s.started = true → i.openParameter s.params = some none →
      exec i s = .next (s.afterRefusal .parameterOpen i)) ∧
    (∀ (reason : RefuseReason) (t : State), step (s.afterRefusal reason i) ≠ .next t)

/-- A command is refused for no other reason (R95, R282): one that passes the checks leaves REFUSED as it was. -/
def Obligations.AdmittedCommandsAreNotRefused : Prop :=
  ∀ (i : Instr) (s : State), i.admitted s → ∃ t, exec i s = .next t ∧ t.refused = s.refused

/-- R35: FAULT and REFUSED are false at reset, set by BusFailure and by a refusal, never cleared by a command, and a
state with either is no successful end and gives no next state. -/
def Obligations.MarksAreNeverCleared : Prop :=
  State.reset.fault = false ∧ State.reset.refused = false ∧
  (∀ s : State, s.busFailure.fault = true ∧ ∀ reason i, (s.refuse reason i).refused = true) ∧
  (∀ (i : Instr) (s t : State), exec i s = .next t →
    (s.fault = true → t.fault = true) ∧ (s.refused = true → t.refused = true)) ∧
  (∀ s : State, s.fault = true ∨ s.refused = true → ¬ s.succeeded ∧ ∀ t, step s ≠ .next t)

/-- R281: any bus-layer call of any bus command may fail; FAULT is set, there is no result, the events before the
failing call stay and the failing call adds none; the run ends. CS_N and BUS are not constrained. -/
def Obligations.BusFailuresEndTheCommand : Prop :=
  ∀ (i : Instr) (s : State), i.isBusCommand = true → i.admitted s →
    (s.claimNow = .fails → ∃ t, exec i s = .next t ∧ s.failedTo t [] ∧ step t = .fault .busFailure) ∧
    (∀ k, k ≤ (encodeFrames s.params i).length → s.claimNow = .granted → s.callsComplete k → s.callAt k = .fails →
      ∃ t, exec i s = .next t ∧ step t = .fault .busFailure ∧
        s.failedTo t (s.claimEvent ::
          frameEvents ((encodeFrames s.params i).take k) (s.answers ((encodeFrames s.params i).take k))))

/-- While a claim is not granted, the command waits (R115, R314): the run reaches no end by it. The model's choice
(log 8): a wait is a next state in which only the bus layer's answer is used up and the command is still the next. -/
def Obligations.UngrantedClaimsLeaveTheCommandWaiting : Prop :=
  ∀ (i : Instr) (s : State), i.isBusCommand = true → i.admitted s → s.claimNow = .notYet →
    exec i s = .next s.afterWait ∧ s.afterWait.index = s.index ∧ s.afterWait.trace = s.trace

/-! ### The whole machine, over every command -/

/-- R116, R117: the trace of a bus command is exactly Claim, its N frames, Release, whatever N is. -/
def Obligations.OneClaimForEachBusCommand : Prop :=
  ∀ (i : Instr) (s : State), i.isBusCommand = true → i.admitted s → s.busServes (encodeFrames s.params i).length →
    ∃ t, exec i s = .next t ∧
      t.trace = s.trace ++ ([s.claimEvent] ++
        frameEvents (encodeFrames s.params i) (s.answers (encodeFrames s.params i)) ++ [.release])

/-- A bus command of N frames shows N separate low pulses of CS_N (read from the end of R118, which the spec derives);
on the wire chip-select is low around a frame's bytes and high after them (the bit-level view is the model's, log 20). -/
def Obligations.ChipSelectPulsesOncePerFrame : Prop :=
  (∀ (i : Instr) (s : State), i.isBusCommand = true → i.admitted s → s.busServes (encodeFrames s.params i).length →
    ∃ t, exec i s = .next t ∧
      csLevels t.trace = csLevels s.trace ++
        (List.replicate (encodeFrames s.params i).length [CsLevel.low, CsLevel.high]).flatten) ∧
  (∀ tx rx : List Byte, rx.length = tx.length →
    (frameWave tx rx).map (fun x => x.csN) = List.replicate (16 * tx.length + 1) .low ++ [.high] ∧
    sampledMosi (frameWave tx rx) = tx.flatMap msbFirstBits ∧
    sampledMiso (frameWave tx rx) = rx.flatMap msbFirstBits)

/-- The configuration and the hardwired constants are changed by no command (R23, R24, R25, R27, R263). The model's
choices: the OPEN parameters of R5 are a field of State that no command writes (log 12), and so is the host's list of
R22 (log 1). -/
def Obligations.ConfigurationNeverChanges : Prop :=
  ∀ (i : Instr) (s t : State), exec i s = .next t → s.sameConfig t

/-- FULLSCALE is written only by SET_FULLSCALE (R26), and the next CONVERT_PRESSURE_STORED sees the new value: it
returns what CONVERT_PRESSURE with that value returns (R319). -/
def Obligations.FullscaleChangesOnlyBySetFullscale : Prop :=
  (∀ (i : Instr) (s t : State), exec i s = .next t → (∀ f, i ≠ .setFullscale f) → t.fullscale = s.fullscale) ∧
  (∀ (s t : State) (f : F32) (raw : Nat), raw < 2 ^ 32 → exec (.setFullscale f) s = .next t →
    t.fullscale = f ∧ exec (.convertPressureStored raw) t = exec (.convertPressure raw f) t)

/-- R34: STARTED is false at reset and written only by BEGIN, which sets it; every bus command and IS_DATA_AVAILABLE is
refused while it is false. -/
def Obligations.StartedIsSetOnlyByBegin : Prop :=
  State.reset.started = false ∧
  (∀ (i : Instr) (s t : State), exec i s = .next t →
    (i = .beginLines → t.started = true) ∧ (i ≠ .beginLines → t.started = s.started)) ∧
  (∀ (i : Instr) (s : State), i.isBusCommand = true ∨ i = .isDataAvailable → i.wellFormed = true → s.started = false →
    exec i s = .next (s.afterRefusal .notStarted i))

/-- LABEL_BUF is written only by READ_LABEL and the label accessors (R30, R200). -/
def Obligations.LabelBufferWrittenOnlyByLabels : Prop :=
  ∀ (i : Instr) (s t : State), exec i s = .next t → (∀ a n, i ≠ .readLabel a n) →
    i ∉ [.readProductNumber, .readSerialNumber, .readFullscaleLabel1, .readFullscaleLabel2, .readDeviceType,
      .readSpeedClass] → t.labelBuf = s.labelBuf

/-- The trace, and the outcomes the host has received, only grow (R36, R12). -/
def Obligations.TraceAndOutcomesOnlyGrow : Prop :=
  ∀ (i : Instr) (s t : State), exec i s = .next t → s.trace <+: t.trace ∧ s.outcomes <+: t.outcomes ∧ s.index ≤ t.index

/-- Commands that are no bus commands leave BUS, FRAME_BUF, LABEL_BUF and the marks alone when admitted, and add no
claim, frame or release to the trace (R262 for BEGIN and IS_DATA_AVAILABLE, the head of 44_unit_converter.md for the
others); only BEGIN touches CS_N. -/
def Obligations.OtherCommandsLeaveTheBusAlone : Prop :=
  ∀ (i : Instr) (s : State), i.isBusCommand = false → i.admitted s →
    ∃ t r, exec i s = .next t ∧ t.outcomes = s.outcomes ++ [.ok r] ∧ t.index = s.index + 1 ∧ t.bus = s.bus ∧
      t.frameBuf = s.frameBuf ∧ t.labelBuf = s.labelBuf ∧ t.fault = s.fault ∧ t.refused = s.refused ∧
      (i ≠ .beginLines → t.csN = s.csN) ∧ (i = .beginLines → t.csN = .high) ∧
      (t.trace = s.trace ∨ t.trace = s.trace ++ [.began s.csLine s.rdyLine] ∨
        ∃ level, t.trace = s.trace ++ [.drdySample level])

/-- Every step keeps the bus discipline (R31, R32, R64, R120, R121): no nested claim, no frame outside a claim, the
bus released and chip-select idle between commands. -/
def Obligations.StepsKeepTheBusDiscipline : Prop :=
  ∀ s t : State, s.busDiscipline → step s = .next t → t.busDiscipline

/-- Every step keeps the trace legal (R88, R89, R111, R113): frames of length 1, 3 or 4 with the opcodes of R87 and no
others, one byte received for each sent, claims at the configured clock. -/
def Obligations.StepsKeepTheTraceLegal : Prop :=
  ∀ s t : State, s.traceLegal → step s = .next t → t.traceLegal

/-- Every step keeps the record of outcomes in agreement with the marks and the position (R22, R35, R282). -/
def Obligations.StepsKeepOutcomesAgreeing : Prop :=
  ∀ s t : State, s.outcomesAgree → step s = .next t → t.outcomesAgree

/-- The three invariants hold at reset. -/
def Obligations.ResetMeetsTheInvariants : Prop :=
  State.reset.busDiscipline ∧ State.reset.traceLegal ∧ State.reset.outcomesAgree

/-! ### Encodings -/

/-- Decoding the frames of a well-formed command gives the command, with every operand at every value, up to what the
wire does not show (R84, R90, R93). -/
def Obligations.WireDecodesWhatWasEncoded : Prop :=
  ∀ (p : OpenParams) (i : Instr), i.wellFormed = true → encodeFrames p i ≠ [] →
    decodeSpan (encodeFrames p i) = .ok (wireForm p i)

/-- What the wire decoder reads is a well-formed command whose frames are exactly those read. It rests on the
frames for which the decoder, after the classification of R90, gives no command: read frames with placeholders other
than zero (log 16), and register frames with byte0 0x80 to 0xBF (log 15). -/
def Obligations.WireDecoderAcceptsOnlyEncodings : Prop :=
  ∀ (p : OpenParams) (fs : List (List Byte)) (i : Instr), decodeSpan fs = .ok i →
    i.wellFormed = true ∧ encodeFrames p i = fs

/-- Reading a printed command of the host's syntax gives the command, for every command and every operand (R92). -/
def Obligations.TextReadsWhatWasPrinted : Prop :=
  ∀ i : Instr, readLine (printLine i) = .ok i

/-- Seven words written out from the table of encodings decode to the commands they stand for, and a word of an unused
opcode is refused. The model's choices (log 15): byte0 is the most significant byte of a word, 0x88 is read as
RESET_SENSOR, and a one-frame memory access as a span of one byte. -/
def Obligations.SpecWordsDecode : Prop :=
  decodeTableWord 8 0x5A = some (.sendCommand 0x5A) ∧ decodeTableWord 8 0x88 = some .resetSensor ∧
    decodeTableWord 32 0x45000000 = some (.readRegister 5) ∧
    decodeTableWord 32 0xFFABCDEF = some (.writeRegister 0x3F 0xABCDEF) ∧
    decodeTableWord 24 0x1ABC00 = some (.readMemory 0xABC 1) ∧
    decodeTableWord 24 0x9ABC5A = some (.writeMemory 0xABC [0x5A]) ∧
    decodeTableWord 24 0x3FFF00 = some (.readOtp 0x1FFF 1) ∧ decodeTableWord 24 0xA00000 = none

/-- A frame is classified by (length, byte0) alone: this is what R90 derives from R80 and R87 ("length 1 is a command;
length 3 with byte0 in 0x10–0x3F or 0x90–0x9F is a memory frame by rule R87; length 4 with byte0 in 0x40–0xFF is a
register frame"). Which frames of a class are no command's is log 15 (a register frame with byte0 0x80 to 0xBF) and
log 16 (a read frame whose placeholders are not zero). -/
def Obligations.FramesAreClassifiedByLengthAndOpcode : Prop :=
  (∀ b0 : Byte, classifyFrame [b0] = .ok (.command b0) ∧ ∃ i, decodeFrame [b0] = .ok i) ∧
  (∀ b0 b1 b2 : Byte,
    (classifyFrame [b0, b1, b2] = .ok (.memory b0 b1 b2) ↔
      (0x10 ≤ b0.toNat ∧ b0.toNat ≤ 0x3F) ∨ (0x90 ≤ b0.toNat ∧ b0.toNat ≤ 0x9F)) ∧
    (decodeFrame [b0, b1, b2] = .error (.unusedOpcode b0) ↔
      ¬ ((0x10 ≤ b0.toNat ∧ b0.toNat ≤ 0x3F) ∨ (0x90 ≤ b0.toNat ∧ b0.toNat ≤ 0x9F))) ∧
    (decodeFrame [b0, b1, b2] = .error .badPlaceholder ↔ 0x10 ≤ b0.toNat ∧ b0.toNat ≤ 0x3F ∧ b2 ≠ 0)) ∧
  (∀ b0 b1 b2 b3 : Byte,
    (classifyFrame [b0, b1, b2, b3] = .ok (.register b0 b1 b2 b3) ↔ 0x40 ≤ b0.toNat) ∧
    (decodeFrame [b0, b1, b2, b3] = .error (.unusedOpcode b0) ↔ b0.toNat < 0x40) ∧
    (decodeFrame [b0, b1, b2, b3] = .error (.noCommand b0) ↔ 0x80 ≤ b0.toNat ∧ b0.toNat ≤ 0xBF) ∧
    (decodeFrame [b0, b1, b2, b3] = .error .badPlaceholder ↔
      0x40 ≤ b0.toNat ∧ b0.toNat ≤ 0x7F ∧ ¬ (b1 = 0 ∧ b2 = 0 ∧ b3 = 0))) ∧
  (∀ bs : List Byte, bs.length ≠ 1 → bs.length ≠ 3 → bs.length ≠ 4 →
    classifyFrame bs = .error (.badLength bs.length) ∧ decodeFrame bs = .error (.badLength bs.length))

/-- R170: the three formulas of MemFrame, in arithmetic. -/
def Obligations.MemFrameFollowsItsFormulas : Prop :=
  ∀ (a : Nat) (d : Byte),
    memFrame .mainRead a 0 = [byteOf (0x10 + a / 256 % 16), byteOf (a % 256), 0x00] ∧
    memFrame .mainWrite a d = [byteOf (0x90 + a / 256 % 16), byteOf (a % 256), d] ∧
    memFrame .otpRead a 0 = [byteOf (0x20 + a / 256 % 32), byteOf (a % 256), 0x00]

/-- R84: a main-memory frame carries A[11:8] in byte0[3:0] and A[7:0] in byte1, an OTP frame A[12:8] in byte0[4:0];
the bits of A above those are discarded. -/
def Obligations.FramesCarryTheLowAddressBits : Prop :=
  ∀ (a : Nat) (d : Byte),
    (∀ v, v = .mainRead ∨ v = .mainWrite →
      (byteAt (memFrame v a d) 0).toNat % 2 ^ 4 = a / 2 ^ 8 % 2 ^ 4 ∧ (byteAt (memFrame v a d) 1).toNat = a % 2 ^ 8 ∧
      memFrame v a d = memFrame v (a % 2 ^ 12) d) ∧
    (byteAt (memFrame .otpRead a d) 0).toNat % 2 ^ 5 = a / 2 ^ 8 % 2 ^ 5 ∧
    (byteAt (memFrame .otpRead a d) 1).toNat = a % 2 ^ 8 ∧
    memFrame .otpRead a d = memFrame .otpRead (a % 2 ^ 13) d

/-- Two addresses give the same frame exactly when they agree in the bits the frame carries (that they do when they
agree is R84's "Two addresses that agree in bits 11:0", which the spec derives). -/
def Obligations.AddressesAliasModuloTheirBits : Prop :=
  ∀ a b : Nat, ∀ d : Byte,
    (memFrame .mainRead a d = memFrame .mainRead b d ↔ a % 4096 = b % 4096) ∧
    (memFrame .mainWrite a d = memFrame .mainWrite b d ↔ a % 4096 = b % 4096) ∧
    (memFrame .otpRead a d = memFrame .otpRead b d ↔ a % 8192 = b % 8192)

/-- R56: register values are big-endian both ways; so a register read answered with the bytes a write sent returns
the value written (the echo property of 95_test_vectors.md L1). -/
def Obligations.RegistersAreBigEndian : Prop :=
  (∀ reg value, reg < 64 → value < 2 ^ 24 →
    regWriteFrame reg value =
      [byteOf (0xC0 + reg), byteOf (value / 2 ^ 16), byteOf (value / 2 ^ 8 % 256), byteOf (value % 256)]) ∧
  (∀ b0 b1 b2 b3 : Byte,
    (registerValue [b0, b1, b2, b3]).toNat = b1.toNat * 2 ^ 16 + b2.toNat * 2 ^ 8 + b3.toNat) ∧
  (∀ reg value, value < 2 ^ 24 → (registerValue (regWriteFrame reg value)).toNat = value)

/-- R209: the little-endian assembly of four bytes. -/
def Obligations.CrcWordsAreLittleEndian : Prop :=
  ∀ b0 b1 b2 b3 : Byte, (littleEndian32 [b0, b1, b2, b3]).toNat =
    b3.toNat * 2 ^ 24 + b2.toNat * 2 ^ 16 + b1.toNat * 2 ^ 8 + b0.toNat

/-! ### The transaction primitive -/

/-- R112: a byte goes out most significant bit first in eight pulses of a clock that idles low, each bit put out on
the leading edge; both sides sample on the trailing edge, where each receives the other's byte; the k-th bit received
is bit 7-k. -/
def Obligations.BytesAreSerialisedMsbFirst : Prop :=
  (∀ b m : Byte, sampledMosi (byteWave b m) = [b[7], b[6], b[5], b[4], b[3], b[2], b[1], b[0]] ∧
    sampledMiso (byteWave b m) = [m[7], m[6], m[5], m[4], m[3], m[2], m[1], m[0]] ∧
    byteWave b m = (List.range 8).flatMap (fun k =>
      [⟨.low, .high, some (b.getLsbD (7 - k)), some (m.getLsbD (7 - k))⟩,
       ⟨.low, .low, some (b.getLsbD (7 - k)), some (m.getLsbD (7 - k))⟩]) ∧
    exchangeByte b m = m) ∧
  (∀ x0 x1 x2 x3 x4 x5 x6 x7 : Bool, ∀ k : Fin 8,
    (byteOfBits [x0, x1, x2, x3, x4, x5, x6, x7]).getLsbD (7 - k) = [x0, x1, x2, x3, x4, x5, x6, x7].getD k false)

/-- R110: a frame of 1, 3 or 4 bytes that the bus layer completes receives one byte for each sent, leaves them in
FRAME_BUF, takes CS_N low and leaves it high, appends its event and changes nothing else; one that fails appends no
event. -/
def Obligations.FrameExchangesByteForByte : Prop :=
  ∀ (tx : List Byte) (s : State), tx.length = 1 ∨ tx.length = 3 ∨ tx.length = 4 →
    (s.callAt 0 = .completes → ∃ t buf env, frame tx s = .ok ((List.range tx.length).map s.misoAt, t) ∧
      t = { s with
        frameBuf := buf, csN := .high, env := env,
        trace := s.trace ++ [.frame tx ((List.range tx.length).map s.misoAt)] } ∧
      buf.toList.take tx.length = (List.range tx.length).map s.misoAt ∧
      csLevels t.trace = csLevels s.trace ++ [.low, .high] ∧
      (∀ k, t.misoAt k = s.misoAt (tx.length + k)) ∧ ∀ k, t.callAt k = s.callAt (k + 1)) ∧
    (s.callAt 0 = .fails → ∃ t, frame tx s = .error t ∧ t.trace = s.trace)

/-- R115: a granted claim sets CLAIMED and records the claim with the configured clock; a release sets RELEASED and is
recorded; neither changes CS_N; a claim not granted records nothing (that it answers a waiting state is log 8). -/
def Obligations.ClaimAndReleaseAreRecorded : Prop :=
  ∀ s : State,
    (s.claimNow = .granted → ∃ env, busClaim s = .granted
      { s with bus := .claimed, trace := s.trace ++ [.claim s.sclkHz .msbFirst .mode1], env := env }) ∧
    (s.claimNow = .notYet → ∃ env, busClaim s = .waiting { s with env := env }) ∧
    (s.callAt 0 = .completes → ∃ env, busRelease s = .ok
      { s with bus := .released, trace := s.trace ++ [.release], env := env })

/-! ### Register codec -/

/-- R141: SEND_COMMAND sends its byte unchanged in one frame and has no result. -/
def Obligations.SendCommandSendsItsByte : Prop :=
  ∀ cmd : Nat,
    (cmd < 256 → busRule (.sendCommand cmd) [[byteOf cmd]] (fun _ => .unit) noLabel) ∧
    (256 ≤ cmd → ∀ s, exec (.sendCommand cmd) s = .next (s.afterRefusal .operandRange (.sendCommand cmd)))

/-- R142: RESET_SENSOR sends 0x88 as SEND_COMMAND does. -/
def Obligations.ResetSensorSends88 : Prop :=
  busRule .resetSensor [[0x88]] (fun _ => .unit) noLabel ∧
  (∀ s, s.started = true → exec .resetSensor s = exec (.sendCommand 0x88) s)

/-- R143: READ_REGISTER's frame and its unsigned result in a 32-bit container, bits 31:24 zero. -/
def Obligations.ReadRegisterReturnsTheValue : Prop :=
  ∀ reg : Nat,
    (reg < 64 → busRule (.readRegister reg) [[byteOf (0x40 + reg), 0, 0, 0]]
      (fun rxs => .uint32 (BitVec.ofNat 32 ((byteAt (rxs.headD []) 1).toNat * 2 ^ 16 +
        (byteAt (rxs.headD []) 2).toNat * 2 ^ 8 + (byteAt (rxs.headD []) 3).toNat))) noLabel) ∧
    (64 ≤ reg → ∀ s, exec (.readRegister reg) s = .next (s.afterRefusal .operandRange (.readRegister reg)))

/-- R144: WRITE_REGISTER's frame; the received bytes are discarded. -/
def Obligations.WriteRegisterSendsTheValue : Prop :=
  ∀ reg value : Nat,
    (reg < 64 → value < 2 ^ 24 → busRule (.writeRegister reg value)
      [[byteOf (0xC0 + reg), byteOf (value / 2 ^ 16), byteOf (value / 2 ^ 8 % 256), byteOf (value % 256)]]
      (fun _ => .unit) noLabel) ∧
    (64 ≤ reg ∨ 2 ^ 24 ≤ value →
      ∀ s, exec (.writeRegister reg value) s = .next (s.afterRefusal .operandRange (.writeRegister reg value)))

/-! ### Memory codec -/

/-- R172: READ_MEMORY's frames and its data bytes, for every address and every n. -/
def Obligations.ReadMemoryReturnsTheSpan : Prop :=
  ∀ addr n : Nat, busRule (.readMemory addr n) (mainReads addr n) (fun rxs => .bytes (thirdBytes rxs)) noLabel

/-- R173: WRITE_MEMORY's frames, in the order of its list; a data element of 256 or more is refused. -/
def Obligations.WriteMemorySendsTheSpan : Prop :=
  ∀ (addr : Nat) (data : List Nat),
    ((∀ d ∈ data, d < 256) → busRule (.writeMemory addr data) (mainWrites addr data) (fun _ => .unit) noLabel) ∧
    ((∃ d ∈ data, 256 ≤ d) →
      ∀ s, exec (.writeMemory addr data) s = .next (s.afterRefusal .operandRange (.writeMemory addr data)))

/-- R174: READ_OTP's frames and its data bytes, for every address and every n. -/
def Obligations.ReadOtpReturnsTheSpan : Prop :=
  ∀ addr n : Nat, busRule (.readOtp addr n) (otpReads addr n) (fun rxs => .bytes (thirdBytes rxs)) noLabel

/-- R175: an empty span claims and releases, sends no frame, moves no chip-select and returns the empty list. -/
def Obligations.EmptySpansSendNothing : Prop :=
  ∀ (addr : Nat) (s : State), s.started = true → s.busServes 0 →
    ∀ i r, (i, r) ∈ [(Instr.readMemory addr 0, Result.bytes []), (.readOtp addr 0, .bytes []),
      (.writeMemory addr [], .unit)] →
      ∃ t, exec i s = .next t ∧ t.trace = s.trace ++ [s.claimEvent, .release] ∧ t.csN = s.csN ∧
        t.outcomes = s.outcomes ++ [.ok r]

/-! ### Labels and CRC words -/

/-- R201: the label scan: the bytes before the first zero byte among the first n, the empty string if there is none,
and bytes from n on are never read. -/
def Obligations.LabelScanStopsAtTheFirstZero : Prop :=
  (∀ (buf : List Byte) (n k : Nat), k < n → (h : k < buf.length) → buf[k] = 0 →
    (∀ j, (hj : j < k) → buf[j] ≠ 0) → labelScan buf n = buf.take k) ∧
  (∀ (buf : List Byte) (n : Nat), (∀ b ∈ buf.take n, b ≠ 0) → labelScan buf n = []) ∧
  (∀ (buf buf' : List Byte) (n : Nat), buf.take n = buf'.take n → labelScan buf n = labelScan buf' n)

/-- R200: READ_LABEL reads min(len, 32) bytes in one span, leaves them in LABEL_BUF and returns the bytes before the
first zero. -/
def Obligations.ReadLabelReturnsTheLabel : Prop :=
  ∀ addr len : Nat, busRule (.readLabel addr len) (mainReads addr (min len 32))
    (fun rxs => .label (zeroTerminated (thirdBytes rxs))) (fun rxs => some (thirdBytes rxs))

/-- R202 to R207: the six accessors are READ_LABEL at their OPEN address with lengths 32, 32, 16, 16, 16, 16. -/
def Obligations.LabelAccessorsReadTheirFields : Prop :=
  labelRule .readProductNumber (fun p => p.labelProductNumber) 32 ∧
  labelRule .readSerialNumber (fun p => p.labelSerialNumber) 32 ∧
  labelRule .readFullscaleLabel1 (fun p => p.labelFullscale1) 16 ∧
  labelRule .readFullscaleLabel2 (fun p => p.labelFullscale2) 16 ∧
  labelRule .readDeviceType (fun p => p.labelDeviceType) 16 ∧
  labelRule .readSpeedClass (fun p => p.labelSpeedClass) 16

/-- What R208 derives from R200 and R201: a label has no zero byte in it and is empty, or is shorter than the span and
the first zero follows it; so no label command returns more than 31 bytes, and one of a 16-byte field not more than
15. -/
def Obligations.LabelsAreZeroFreeAndShort : Prop :=
  (∀ (buf : List Byte) (n : Nat), (0 : Byte) ∉ labelScan buf n ∧
    (labelScan buf n ≠ [] → (labelScan buf n).length + 1 ≤ n ∧ buf[(labelScan buf n).length]? = some 0)) ∧
  (∀ (i : Instr) (s t : State) (bs : List Byte), exec i s = .next t → t.outcomes = s.outcomes ++ [.ok (.label bs)] →
    (0 : Byte) ∉ bs ∧ bs.length ≤ 31 ∧
    (i ∈ [.readFullscaleLabel1, .readFullscaleLabel2, .readDeviceType, .readSpeedClass] → bs.length ≤ 15))

/-- R210: READ_SRAM_CRC reads four main-memory bytes at its OPEN address, little-endian. -/
def Obligations.ReadSramCrcReturnsTheWord : Prop :=
  openRule .readSramCrc (fun p => p.sramCrc) (fun a => mainReads a 4)
    (fun rxs => .uint32 (BitVec.ofNat 32 (littleEndianNumber (thirdBytes rxs)))) noLabel

/-- R211: READ_OTP_CRC reads four OTP bytes at its OPEN address, little-endian. -/
def Obligations.ReadOtpCrcReturnsTheWord : Prop :=
  openRule .readOtpCrc (fun p => p.otpCrc) (fun a => otpReads a 4)
    (fun rxs => .uint32 (BitVec.ofNat 32 (littleEndianNumber (thirdBytes rxs)))) noLabel

/-- R93: the pseudo-commands expand exactly: RESET_SENSOR, the label accessors, CONVERT_PRESSURE_STORED, and the CRC
reads as a four-byte read followed by a little-endian assembly. -/
def Obligations.PseudoCommandsExpand : Prop :=
  ∀ s : State, s.started = true →
    exec .resetSensor s = exec (.sendCommand 0x88) s ∧
    (∀ a, s.params.labelProductNumber = some a → exec .readProductNumber s = exec (.readLabel a 32) s) ∧
    (∀ a, s.params.labelSerialNumber = some a → exec .readSerialNumber s = exec (.readLabel a 32) s) ∧
    (∀ a, s.params.labelFullscale1 = some a → exec .readFullscaleLabel1 s = exec (.readLabel a 16) s) ∧
    (∀ a, s.params.labelFullscale2 = some a → exec .readFullscaleLabel2 s = exec (.readLabel a 16) s) ∧
    (∀ a, s.params.labelDeviceType = some a → exec .readDeviceType s = exec (.readLabel a 16) s) ∧
    (∀ a, s.params.labelSpeedClass = some a → exec .readSpeedClass s = exec (.readLabel a 16) s) ∧
    (∀ raw, raw < 2 ^ 32 →
      exec (.convertPressureStored raw) s = exec (.convertPressure raw s.fullscale) s) ∧
    (∀ (a : Nat) (t : State) (bs : List Byte), s.params.sramCrc = some a → exec (.readMemory a 4) s = .next t →
      t.outcomes = s.outcomes ++ [.ok (.bytes bs)] →
      exec .readSramCrc s = .next { t with outcomes := s.outcomes ++ [.ok (.uint32 (littleEndian32 bs))] }) ∧
    (∀ (a : Nat) (t : State) (bs : List Byte), s.params.otpCrc = some a → exec (.readOtp a 4) s = .next t →
      t.outcomes = s.outcomes ++ [.ok (.bytes bs)] →
      exec .readOtpCrc s = .next { t with outcomes := s.outcomes ++ [.ok (.uint32 (littleEndian32 bs))] })

/-! ### Lines -/

/-- R260: BEGIN, at any time and again: CS_N high, STARTED, its event, no result, nothing else. -/
def Obligations.BeginConfiguresTheLines : Prop :=
  ∀ s : State, exec .beginLines s = .next { s with
    csN := .high, started := true, trace := s.trace ++ [.began s.csLine s.rdyLine],
    outcomes := s.outcomes ++ [.ok .unit], index := s.index + 1 }

/-- R261: IS_DATA_AVAILABLE samples the line once, true iff it is low; refused before BEGIN. -/
def Obligations.IsDataAvailableSamplesTheLine : Prop :=
  ∀ s : State,
    (s.started = true → exec .isDataAvailable s = .next { s with
      trace := s.trace ++ [.drdySample s.drdyNow],
      outcomes := s.outcomes ++ [.ok (.bool (decide (s.drdyNow = .low)))], index := s.index + 1,
      env := { s.env with drdy := s.env.drdy.skip 1 } }) ∧
    (s.started = false → exec .isDataAvailable s = .next (s.afterRefusal .notStarted .isDataAvailable))

/-! ### The unpacker and the converters -/

/-- R235: SET_FULLSCALE stores any pattern bit-exact and changes nothing else. -/
def Obligations.SetFullscaleStoresBitExact : Prop :=
  ∀ (s : State) (f : F32), exec (.setFullscale f) s = .next { s with
    fullscale := f, outcomes := s.outcomes ++ [.ok .unit], index := s.index + 1 }

/-- R231: SIGN_EXTEND_24 returns the signed 24-bit number, bits 31:24 of raw ignored; no other effect. -/
def Obligations.SignExtendReadsTwentyFourBits : Prop :=
  (∀ (s : State) (raw : Nat), raw < 2 ^ 32 → ∃ v : Word32, v.toInt = reading24 raw ∧
    -8388608 ≤ v.toInt ∧ v.toInt ≤ 8388607 ∧
    exec (.signExtend24 raw) s = .next { s with
      outcomes := s.outcomes ++ [.ok (.int32 v)], index := s.index + 1 }) ∧
  (∀ (s : State) (raw : Nat), 2 ^ 32 ≤ raw →
    exec (.signExtend24 raw) s = .next (s.afterRefusal .operandRange (.signExtend24 raw)))

/-- R232: CONVERT_PRESSURE returns s × f / 2^21 rounded once, with the special values of R236; nothing else changes. -/
def Obligations.ConvertPressureScalesByFullscale : Prop :=
  (∀ (s : State) (raw : Nat) (f : F32), raw < 2 ^ 32 → ∃ t x, exec (.convertPressure raw f) s = .next t ∧
    s.answeredTo t (.binary32 x) ∧ isConverted x (reading24 raw) f) ∧
  (∀ (s : State) (raw : Nat) (f : F32), 2 ^ 32 ≤ raw →
    exec (.convertPressure raw f) s = .next (s.afterRefusal .operandRange (.convertPressure raw f)))

/-- R233: CONVERT_PRESSURE_STORED is CONVERT_PRESSURE with S.FULLSCALE. -/
def Obligations.ConvertPressureStoredUsesFullscale : Prop :=
  (∀ (s : State) (raw : Nat), raw < 2 ^ 32 → ∃ t x, exec (.convertPressureStored raw) s = .next t ∧
    s.answeredTo t (.binary32 x) ∧ isConverted x (reading24 raw) s.fullscale) ∧
  (∀ (s : State) (raw : Nat), 2 ^ 32 ≤ raw →
    exec (.convertPressureStored raw) s = .next (s.afterRefusal .operandRange (.convertPressureStored raw)))

/-- CONVERT_TEMPERATURE returns s × 25 / 2^21 rounded once, +0.0 for s = 0. The spec derives the closed form and that
it is never infinite or NaN: "For every raw the result is `RNE32(s × 25 / 2^21)`, which is never infinite or NaN
[derived: from rule R230 and rule R237]". -/
def Obligations.ConvertTemperatureScalesBy25 : Prop :=
  (∀ (s : State) (raw : Nat), raw < 2 ^ 32 → ∃ t x, exec (.convertTemperature raw) s = .next t ∧
    s.answeredTo t (.binary32 x) ∧ f32IsFinite x = true ∧
    isRounded x (decide (reading24 raw < 0)) (((reading24 raw).natAbs : ℚ) * 25 / 2 ^ 21) ∧
    (reading24 raw = 0 → x = 0x00000000)) ∧
  (∀ (s : State) (raw : Nat), 2 ^ 32 ≤ raw →
    exec (.convertTemperature raw) s = .next (s.afterRefusal .operandRange (.convertTemperature raw)))

/-- R230: `RNE32` of every real ±n/d is a nearest binary32 value, even on a tie, infinite from 2^128 - 2^103 on. -/
def Obligations.RoundingIsToNearestEven : Prop :=
  ∀ (neg : Bool) (n d : Nat), 0 < d → isRounded (rne32 neg n d) neg ((n : ℚ) / (d : ℚ))

/-- R236: the special values of multiplication, and that the sign of a result that is no NaN is the XOR of the signs;
the sign of q is that of s, plus for s = 0; a finite full-scale overflows only from 2^126 - 2^101 on; NAN_RESULT is a
NaN, and any NaN may be it. -/
def Obligations.MultiplicationFollowsIeee : Prop :=
  (∀ nan a b : F32,
    (f32IsNaN a = true ∨ f32IsNaN b = true → f32Mul nan a b = nan) ∧
    (f32IsInf b = true → f32IsZero a = true → f32Mul nan a b = nan) ∧
    (f32IsInf b = true → f32IsFinite a = true → f32IsZero a = false →
      f32IsInf (f32Mul nan a b) = true ∧ f32Neg (f32Mul nan a b) = (f32Neg a != f32Neg b)) ∧
    (f32IsZero b = true → f32IsFinite a = true →
      f32IsZero (f32Mul nan a b) = true ∧ f32Neg (f32Mul nan a b) = (f32Neg a != f32Neg b)) ∧
    (f32IsFinite a = true → f32IsFinite b = true →
      isRounded (f32Mul nan a b) (f32Neg a != f32Neg b) (f32Magnitude a * f32Magnitude b))) ∧
  (∀ raw : Nat, f32Neg (scaledReading raw) = decide (reading24 raw < 0)) ∧
  (∀ (nan f : F32) (raw : Nat), f32IsFinite f = true → f32IsInf (pressureOf nan raw f) = true →
    2 ^ 126 - 2 ^ 101 ≤ f32Magnitude f) ∧
  (∀ w : F32, f32IsNaN (nanOf w) = true) ∧ (∀ x : F32, f32IsNaN x = true → nanOf x = x)

/-- The conversion of s and its division by 2^21 are exact ("The conversion of s to binary32 is exact", "The division
is exact", R237, which the spec derives), with the sign of s and +0.0 for s = 0. -/
def Obligations.ScaledReadingIsExact : Prop :=
  ∀ raw : Nat, f32IsFinite (scaledReading raw) = true ∧
    f32Real (scaledReading raw) = (signedReading raw : ℚ) / 2 ^ 21 ∧
    f32Neg (scaledReading raw) = decide (signedReading raw < 0) ∧ signedReading raw = reading24 raw

/-- What R238 derives from the 24-bit width and the scale: the ranges of s and of q; a finite pressure result lies in
[-4|f|, 4|f|]; every temperature lies between -100.0 and 99.99998474121094, and both ends are attained. -/
def Obligations.ResultsLieInTheirRanges : Prop :=
  (∀ raw : Nat, -2 ^ 23 ≤ signedReading raw ∧ signedReading raw ≤ 2 ^ 23 - 1 ∧ -4 ≤ f32Real (scaledReading raw) ∧
    f32Real (scaledReading raw) ≤ 4 - 1 / 2 ^ 21) ∧
  (∀ (nan f : F32) (raw : Nat), f32IsFinite f = true → f32IsFinite (pressureOf nan raw f) = true →
    |f32Real (pressureOf nan raw f)| ≤ 4 * |f32Real f|) ∧
  (∀ (nan : F32) (raw : Nat), -100 ≤ f32Real (temperatureOf nan raw) ∧
    f32Real (temperatureOf nan raw) ≤ f32Real 0x42C7FFFE) ∧
  (∀ nan : F32, temperatureOf nan 0x800000 = 0xC2C80000 ∧ temperatureOf nan 0x7FFFFF = 0x42C7FFFE)
end

