-- ==== Sys2Proof/Laws/State.lean ====
section
/-! SUPPORT. One lemma for each field and each named update of the state, true by rfl, so that no later proof unfolds
a record update. -/

namespace Sys2Proof.Machine

variable (s : State)

/-! ### `State.drawn` -/

@[simp] theorem State.drawn_csLine : (s.drawn).csLine = s.csLine := rfl
@[simp] theorem State.drawn_rdyLine : (s.drawn).rdyLine = s.rdyLine := rfl
@[simp] theorem State.drawn_sclkHz : (s.drawn).sclkHz = s.sclkHz := rfl
@[simp] theorem State.drawn_fullscale : (s.drawn).fullscale = s.fullscale := rfl
@[simp] theorem State.drawn_bitOrder : (s.drawn).bitOrder = s.bitOrder := rfl
@[simp] theorem State.drawn_spiMode : (s.drawn).spiMode = s.spiMode := rfl
@[simp] theorem State.drawn_params : (s.drawn).params = s.params := rfl
@[simp] theorem State.drawn_frameBuf : (s.drawn).frameBuf = s.frameBuf := rfl
@[simp] theorem State.drawn_labelBuf : (s.drawn).labelBuf = s.labelBuf := rfl
@[simp] theorem State.drawn_bus : (s.drawn).bus = s.bus := rfl
@[simp] theorem State.drawn_csN : (s.drawn).csN = s.csN := rfl
@[simp] theorem State.drawn_started : (s.drawn).started = s.started := rfl
@[simp] theorem State.drawn_fault : (s.drawn).fault = s.fault := rfl
@[simp] theorem State.drawn_refused : (s.drawn).refused = s.refused := rfl
@[simp] theorem State.drawn_trace : (s.drawn).trace = s.trace := rfl
@[simp] theorem State.drawn_outcomes : (s.drawn).outcomes = s.outcomes := rfl
@[simp] theorem State.drawn_program : (s.drawn).program = s.program := rfl
@[simp] theorem State.drawn_index : (s.drawn).index = s.index := rfl
@[simp] theorem State.drawn_env : (s.drawn).env = { s.env with draws := s.env.draws + 1 } := rfl

/-! ### `State.complete` -/

@[simp] theorem State.complete_csLine (r : Result) : (s.complete r).csLine = s.csLine := rfl
@[simp] theorem State.complete_rdyLine (r : Result) : (s.complete r).rdyLine = s.rdyLine := rfl
@[simp] theorem State.complete_sclkHz (r : Result) : (s.complete r).sclkHz = s.sclkHz := rfl
@[simp] theorem State.complete_fullscale (r : Result) : (s.complete r).fullscale = s.fullscale := rfl
@[simp] theorem State.complete_bitOrder (r : Result) : (s.complete r).bitOrder = s.bitOrder := rfl
@[simp] theorem State.complete_spiMode (r : Result) : (s.complete r).spiMode = s.spiMode := rfl
@[simp] theorem State.complete_params (r : Result) : (s.complete r).params = s.params := rfl
@[simp] theorem State.complete_frameBuf (r : Result) : (s.complete r).frameBuf = s.frameBuf := rfl
@[simp] theorem State.complete_labelBuf (r : Result) : (s.complete r).labelBuf = s.labelBuf := rfl
@[simp] theorem State.complete_bus (r : Result) : (s.complete r).bus = s.bus := rfl
@[simp] theorem State.complete_csN (r : Result) : (s.complete r).csN = s.csN := rfl
@[simp] theorem State.complete_started (r : Result) : (s.complete r).started = s.started := rfl
@[simp] theorem State.complete_fault (r : Result) : (s.complete r).fault = s.fault := rfl
@[simp] theorem State.complete_refused (r : Result) : (s.complete r).refused = s.refused := rfl
@[simp] theorem State.complete_trace (r : Result) : (s.complete r).trace = s.trace := rfl
@[simp] theorem State.complete_outcomes (r : Result) : (s.complete r).outcomes = s.outcomes ++ [.ok r] := rfl
@[simp] theorem State.complete_program (r : Result) : (s.complete r).program = s.program := rfl
@[simp] theorem State.complete_index (r : Result) : (s.complete r).index = s.index + 1 := rfl
@[simp] theorem State.complete_env (r : Result) : (s.complete r).env = s.env := rfl

/-! ### `State.refuse` -/

@[simp] theorem State.refuse_csLine (why : RefuseReason) (i : Instr) : (s.refuse why i).csLine = s.csLine := rfl
@[simp] theorem State.refuse_rdyLine (why : RefuseReason) (i : Instr) : (s.refuse why i).rdyLine = s.rdyLine := rfl
@[simp] theorem State.refuse_sclkHz (why : RefuseReason) (i : Instr) : (s.refuse why i).sclkHz = s.sclkHz := rfl
@[simp] theorem State.refuse_fullscale (why : RefuseReason) (i : Instr) : (s.refuse why i).fullscale = s.fullscale := rfl
@[simp] theorem State.refuse_bitOrder (why : RefuseReason) (i : Instr) : (s.refuse why i).bitOrder = s.bitOrder := rfl
@[simp] theorem State.refuse_spiMode (why : RefuseReason) (i : Instr) : (s.refuse why i).spiMode = s.spiMode := rfl
@[simp] theorem State.refuse_params (why : RefuseReason) (i : Instr) : (s.refuse why i).params = s.params := rfl
@[simp] theorem State.refuse_frameBuf (why : RefuseReason) (i : Instr) : (s.refuse why i).frameBuf = s.frameBuf := rfl
@[simp] theorem State.refuse_labelBuf (why : RefuseReason) (i : Instr) : (s.refuse why i).labelBuf = s.labelBuf := rfl
@[simp] theorem State.refuse_bus (why : RefuseReason) (i : Instr) : (s.refuse why i).bus = s.bus := rfl
@[simp] theorem State.refuse_csN (why : RefuseReason) (i : Instr) : (s.refuse why i).csN = s.csN := rfl
@[simp] theorem State.refuse_started (why : RefuseReason) (i : Instr) : (s.refuse why i).started = s.started := rfl
@[simp] theorem State.refuse_fault (why : RefuseReason) (i : Instr) : (s.refuse why i).fault = s.fault := rfl
@[simp] theorem State.refuse_refused (why : RefuseReason) (i : Instr) : (s.refuse why i).refused = true := rfl
@[simp] theorem State.refuse_trace (why : RefuseReason) (i : Instr) : (s.refuse why i).trace = s.trace := rfl
@[simp] theorem State.refuse_outcomes (why : RefuseReason) (i : Instr) : (s.refuse why i).outcomes = s.outcomes ++ [.refused why i] := rfl
@[simp] theorem State.refuse_program (why : RefuseReason) (i : Instr) : (s.refuse why i).program = s.program := rfl
@[simp] theorem State.refuse_index (why : RefuseReason) (i : Instr) : (s.refuse why i).index = s.index := rfl
@[simp] theorem State.refuse_env (why : RefuseReason) (i : Instr) : (s.refuse why i).env = s.env := rfl

/-! ### `State.busFailure` -/

@[simp] theorem State.busFailure_csLine : (s.busFailure).csLine = s.csLine := rfl
@[simp] theorem State.busFailure_rdyLine : (s.busFailure).rdyLine = s.rdyLine := rfl
@[simp] theorem State.busFailure_sclkHz : (s.busFailure).sclkHz = s.sclkHz := rfl
@[simp] theorem State.busFailure_fullscale : (s.busFailure).fullscale = s.fullscale := rfl
@[simp] theorem State.busFailure_bitOrder : (s.busFailure).bitOrder = s.bitOrder := rfl
@[simp] theorem State.busFailure_spiMode : (s.busFailure).spiMode = s.spiMode := rfl
@[simp] theorem State.busFailure_params : (s.busFailure).params = s.params := rfl
@[simp] theorem State.busFailure_frameBuf : (s.busFailure).frameBuf = s.frameBuf := rfl
@[simp] theorem State.busFailure_labelBuf : (s.busFailure).labelBuf = s.labelBuf := rfl
@[simp] theorem State.busFailure_bus : (s.busFailure).bus = Config.freeBus s.env.draws := rfl
@[simp] theorem State.busFailure_csN : (s.busFailure).csN = Config.freeCsN s.env.draws := rfl
@[simp] theorem State.busFailure_started : (s.busFailure).started = s.started := rfl
@[simp] theorem State.busFailure_fault : (s.busFailure).fault = true := rfl
@[simp] theorem State.busFailure_refused : (s.busFailure).refused = s.refused := rfl
@[simp] theorem State.busFailure_trace : (s.busFailure).trace = s.trace := rfl
@[simp] theorem State.busFailure_outcomes : (s.busFailure).outcomes = s.outcomes ++ [.busFailure] := rfl
@[simp] theorem State.busFailure_program : (s.busFailure).program = s.program := rfl
@[simp] theorem State.busFailure_index : (s.busFailure).index = s.index := rfl
@[simp] theorem State.busFailure_env : (s.busFailure).env = { s.env with draws := s.env.draws + 1 } := rfl

/-! ### `State.claimAsked` -/

@[simp] theorem State.claimAsked_csLine : (s.claimAsked).csLine = s.csLine := rfl
@[simp] theorem State.claimAsked_rdyLine : (s.claimAsked).rdyLine = s.rdyLine := rfl
@[simp] theorem State.claimAsked_sclkHz : (s.claimAsked).sclkHz = s.sclkHz := rfl
@[simp] theorem State.claimAsked_fullscale : (s.claimAsked).fullscale = s.fullscale := rfl
@[simp] theorem State.claimAsked_bitOrder : (s.claimAsked).bitOrder = s.bitOrder := rfl
@[simp] theorem State.claimAsked_spiMode : (s.claimAsked).spiMode = s.spiMode := rfl
@[simp] theorem State.claimAsked_params : (s.claimAsked).params = s.params := rfl
@[simp] theorem State.claimAsked_frameBuf : (s.claimAsked).frameBuf = s.frameBuf := rfl
@[simp] theorem State.claimAsked_labelBuf : (s.claimAsked).labelBuf = s.labelBuf := rfl
@[simp] theorem State.claimAsked_bus : (s.claimAsked).bus = s.bus := rfl
@[simp] theorem State.claimAsked_csN : (s.claimAsked).csN = s.csN := rfl
@[simp] theorem State.claimAsked_started : (s.claimAsked).started = s.started := rfl
@[simp] theorem State.claimAsked_fault : (s.claimAsked).fault = s.fault := rfl
@[simp] theorem State.claimAsked_refused : (s.claimAsked).refused = s.refused := rfl
@[simp] theorem State.claimAsked_trace : (s.claimAsked).trace = s.trace := rfl
@[simp] theorem State.claimAsked_outcomes : (s.claimAsked).outcomes = s.outcomes := rfl
@[simp] theorem State.claimAsked_program : (s.claimAsked).program = s.program := rfl
@[simp] theorem State.claimAsked_index : (s.claimAsked).index = s.index := rfl
@[simp] theorem State.claimAsked_env : (s.claimAsked).env = { s.env with claims := s.env.claims.skip 1 } := rfl

/-! ### `State.claimGranted` -/

@[simp] theorem State.claimGranted_csLine : (s.claimGranted).csLine = s.csLine := rfl
@[simp] theorem State.claimGranted_rdyLine : (s.claimGranted).rdyLine = s.rdyLine := rfl
@[simp] theorem State.claimGranted_sclkHz : (s.claimGranted).sclkHz = s.sclkHz := rfl
@[simp] theorem State.claimGranted_fullscale : (s.claimGranted).fullscale = s.fullscale := rfl
@[simp] theorem State.claimGranted_bitOrder : (s.claimGranted).bitOrder = s.bitOrder := rfl
@[simp] theorem State.claimGranted_spiMode : (s.claimGranted).spiMode = s.spiMode := rfl
@[simp] theorem State.claimGranted_params : (s.claimGranted).params = s.params := rfl
@[simp] theorem State.claimGranted_frameBuf : (s.claimGranted).frameBuf = s.frameBuf := rfl
@[simp] theorem State.claimGranted_labelBuf : (s.claimGranted).labelBuf = s.labelBuf := rfl
@[simp] theorem State.claimGranted_bus : (s.claimGranted).bus = .claimed := rfl
@[simp] theorem State.claimGranted_csN : (s.claimGranted).csN = s.csN := rfl
@[simp] theorem State.claimGranted_started : (s.claimGranted).started = s.started := rfl
@[simp] theorem State.claimGranted_fault : (s.claimGranted).fault = s.fault := rfl
@[simp] theorem State.claimGranted_refused : (s.claimGranted).refused = s.refused := rfl
@[simp] theorem State.claimGranted_trace : (s.claimGranted).trace = s.trace ++ [.claim s.sclkHz s.bitOrder s.spiMode] := rfl
@[simp] theorem State.claimGranted_outcomes : (s.claimGranted).outcomes = s.outcomes := rfl
@[simp] theorem State.claimGranted_program : (s.claimGranted).program = s.program := rfl
@[simp] theorem State.claimGranted_index : (s.claimGranted).index = s.index := rfl
@[simp] theorem State.claimGranted_env : (s.claimGranted).env = s.env := rfl

/-! ### `State.callAsked` -/

@[simp] theorem State.callAsked_csLine : (s.callAsked).csLine = s.csLine := rfl
@[simp] theorem State.callAsked_rdyLine : (s.callAsked).rdyLine = s.rdyLine := rfl
@[simp] theorem State.callAsked_sclkHz : (s.callAsked).sclkHz = s.sclkHz := rfl
@[simp] theorem State.callAsked_fullscale : (s.callAsked).fullscale = s.fullscale := rfl
@[simp] theorem State.callAsked_bitOrder : (s.callAsked).bitOrder = s.bitOrder := rfl
@[simp] theorem State.callAsked_spiMode : (s.callAsked).spiMode = s.spiMode := rfl
@[simp] theorem State.callAsked_params : (s.callAsked).params = s.params := rfl
@[simp] theorem State.callAsked_frameBuf : (s.callAsked).frameBuf = s.frameBuf := rfl
@[simp] theorem State.callAsked_labelBuf : (s.callAsked).labelBuf = s.labelBuf := rfl
@[simp] theorem State.callAsked_bus : (s.callAsked).bus = s.bus := rfl
@[simp] theorem State.callAsked_csN : (s.callAsked).csN = s.csN := rfl
@[simp] theorem State.callAsked_started : (s.callAsked).started = s.started := rfl
@[simp] theorem State.callAsked_fault : (s.callAsked).fault = s.fault := rfl
@[simp] theorem State.callAsked_refused : (s.callAsked).refused = s.refused := rfl
@[simp] theorem State.callAsked_trace : (s.callAsked).trace = s.trace := rfl
@[simp] theorem State.callAsked_outcomes : (s.callAsked).outcomes = s.outcomes := rfl
@[simp] theorem State.callAsked_program : (s.callAsked).program = s.program := rfl
@[simp] theorem State.callAsked_index : (s.callAsked).index = s.index := rfl
@[simp] theorem State.callAsked_env : (s.callAsked).env = { s.env with calls := s.env.calls.skip 1 } := rfl

/-! ### `State.busReleased` -/

@[simp] theorem State.busReleased_csLine : (s.busReleased).csLine = s.csLine := rfl
@[simp] theorem State.busReleased_rdyLine : (s.busReleased).rdyLine = s.rdyLine := rfl
@[simp] theorem State.busReleased_sclkHz : (s.busReleased).sclkHz = s.sclkHz := rfl
@[simp] theorem State.busReleased_fullscale : (s.busReleased).fullscale = s.fullscale := rfl
@[simp] theorem State.busReleased_bitOrder : (s.busReleased).bitOrder = s.bitOrder := rfl
@[simp] theorem State.busReleased_spiMode : (s.busReleased).spiMode = s.spiMode := rfl
@[simp] theorem State.busReleased_params : (s.busReleased).params = s.params := rfl
@[simp] theorem State.busReleased_frameBuf : (s.busReleased).frameBuf = s.frameBuf := rfl
@[simp] theorem State.busReleased_labelBuf : (s.busReleased).labelBuf = s.labelBuf := rfl
@[simp] theorem State.busReleased_bus : (s.busReleased).bus = .released := rfl
@[simp] theorem State.busReleased_csN : (s.busReleased).csN = s.csN := rfl
@[simp] theorem State.busReleased_started : (s.busReleased).started = s.started := rfl
@[simp] theorem State.busReleased_fault : (s.busReleased).fault = s.fault := rfl
@[simp] theorem State.busReleased_refused : (s.busReleased).refused = s.refused := rfl
@[simp] theorem State.busReleased_trace : (s.busReleased).trace = s.trace ++ [.release] := rfl
@[simp] theorem State.busReleased_outcomes : (s.busReleased).outcomes = s.outcomes := rfl
@[simp] theorem State.busReleased_program : (s.busReleased).program = s.program := rfl
@[simp] theorem State.busReleased_index : (s.busReleased).index = s.index := rfl
@[simp] theorem State.busReleased_env : (s.busReleased).env = s.env := rfl

/-! ### `State.framed` -/

@[simp] theorem State.framed_csLine (tx rx : List Byte) : (s.framed tx rx).csLine = s.csLine := rfl
@[simp] theorem State.framed_rdyLine (tx rx : List Byte) : (s.framed tx rx).rdyLine = s.rdyLine := rfl
@[simp] theorem State.framed_sclkHz (tx rx : List Byte) : (s.framed tx rx).sclkHz = s.sclkHz := rfl
@[simp] theorem State.framed_fullscale (tx rx : List Byte) : (s.framed tx rx).fullscale = s.fullscale := rfl
@[simp] theorem State.framed_bitOrder (tx rx : List Byte) : (s.framed tx rx).bitOrder = s.bitOrder := rfl
@[simp] theorem State.framed_spiMode (tx rx : List Byte) : (s.framed tx rx).spiMode = s.spiMode := rfl
@[simp] theorem State.framed_params (tx rx : List Byte) : (s.framed tx rx).params = s.params := rfl
@[simp] theorem State.framed_frameBuf (tx rx : List Byte) : (s.framed tx rx).frameBuf = s.bufferAfter rx := rfl
@[simp] theorem State.framed_labelBuf (tx rx : List Byte) : (s.framed tx rx).labelBuf = s.labelBuf := rfl
@[simp] theorem State.framed_bus (tx rx : List Byte) : (s.framed tx rx).bus = s.bus := rfl
@[simp] theorem State.framed_csN (tx rx : List Byte) : (s.framed tx rx).csN = .high := rfl
@[simp] theorem State.framed_started (tx rx : List Byte) : (s.framed tx rx).started = s.started := rfl
@[simp] theorem State.framed_fault (tx rx : List Byte) : (s.framed tx rx).fault = s.fault := rfl
@[simp] theorem State.framed_refused (tx rx : List Byte) : (s.framed tx rx).refused = s.refused := rfl
@[simp] theorem State.framed_trace (tx rx : List Byte) : (s.framed tx rx).trace = s.trace ++ [.frame tx rx] := rfl
@[simp] theorem State.framed_outcomes (tx rx : List Byte) : (s.framed tx rx).outcomes = s.outcomes := rfl
@[simp] theorem State.framed_program (tx rx : List Byte) : (s.framed tx rx).program = s.program := rfl
@[simp] theorem State.framed_index (tx rx : List Byte) : (s.framed tx rx).index = s.index := rfl
@[simp] theorem State.framed_env (tx rx : List Byte) : (s.framed tx rx).env = { s.env with miso := s.env.miso.skip rx.length, draws := s.env.draws + 1 } := rfl

/-! ### `State.frameFailed` -/

@[simp] theorem State.frameFailed_csLine : (s.frameFailed).csLine = s.csLine := rfl
@[simp] theorem State.frameFailed_rdyLine : (s.frameFailed).rdyLine = s.rdyLine := rfl
@[simp] theorem State.frameFailed_sclkHz : (s.frameFailed).sclkHz = s.sclkHz := rfl
@[simp] theorem State.frameFailed_fullscale : (s.frameFailed).fullscale = s.fullscale := rfl
@[simp] theorem State.frameFailed_bitOrder : (s.frameFailed).bitOrder = s.bitOrder := rfl
@[simp] theorem State.frameFailed_spiMode : (s.frameFailed).spiMode = s.spiMode := rfl
@[simp] theorem State.frameFailed_params : (s.frameFailed).params = s.params := rfl
@[simp] theorem State.frameFailed_frameBuf : (s.frameFailed).frameBuf = overwrite s.frameBuf (s.freeBytes 4) := rfl
@[simp] theorem State.frameFailed_labelBuf : (s.frameFailed).labelBuf = s.labelBuf := rfl
@[simp] theorem State.frameFailed_bus : (s.frameFailed).bus = s.bus := rfl
@[simp] theorem State.frameFailed_csN : (s.frameFailed).csN = s.csN := rfl
@[simp] theorem State.frameFailed_started : (s.frameFailed).started = s.started := rfl
@[simp] theorem State.frameFailed_fault : (s.frameFailed).fault = s.fault := rfl
@[simp] theorem State.frameFailed_refused : (s.frameFailed).refused = s.refused := rfl
@[simp] theorem State.frameFailed_trace : (s.frameFailed).trace = s.trace := rfl
@[simp] theorem State.frameFailed_outcomes : (s.frameFailed).outcomes = s.outcomes := rfl
@[simp] theorem State.frameFailed_program : (s.frameFailed).program = s.program := rfl
@[simp] theorem State.frameFailed_index : (s.frameFailed).index = s.index := rfl
@[simp] theorem State.frameFailed_env : (s.frameFailed).env = { s.env with draws := s.env.draws + 1 } := rfl

/-! ### `State.withLabel` -/

@[simp] theorem State.withLabel_csLine (bytes : List Byte) : (s.withLabel bytes).csLine = s.csLine := rfl
@[simp] theorem State.withLabel_rdyLine (bytes : List Byte) : (s.withLabel bytes).rdyLine = s.rdyLine := rfl
@[simp] theorem State.withLabel_sclkHz (bytes : List Byte) : (s.withLabel bytes).sclkHz = s.sclkHz := rfl
@[simp] theorem State.withLabel_fullscale (bytes : List Byte) : (s.withLabel bytes).fullscale = s.fullscale := rfl
@[simp] theorem State.withLabel_bitOrder (bytes : List Byte) : (s.withLabel bytes).bitOrder = s.bitOrder := rfl
@[simp] theorem State.withLabel_spiMode (bytes : List Byte) : (s.withLabel bytes).spiMode = s.spiMode := rfl
@[simp] theorem State.withLabel_params (bytes : List Byte) : (s.withLabel bytes).params = s.params := rfl
@[simp] theorem State.withLabel_frameBuf (bytes : List Byte) : (s.withLabel bytes).frameBuf = s.frameBuf := rfl
@[simp] theorem State.withLabel_labelBuf (bytes : List Byte) : (s.withLabel bytes).labelBuf = overwrite s.labelBuf bytes := rfl
@[simp] theorem State.withLabel_bus (bytes : List Byte) : (s.withLabel bytes).bus = s.bus := rfl
@[simp] theorem State.withLabel_csN (bytes : List Byte) : (s.withLabel bytes).csN = s.csN := rfl
@[simp] theorem State.withLabel_started (bytes : List Byte) : (s.withLabel bytes).started = s.started := rfl
@[simp] theorem State.withLabel_fault (bytes : List Byte) : (s.withLabel bytes).fault = s.fault := rfl
@[simp] theorem State.withLabel_refused (bytes : List Byte) : (s.withLabel bytes).refused = s.refused := rfl
@[simp] theorem State.withLabel_trace (bytes : List Byte) : (s.withLabel bytes).trace = s.trace := rfl
@[simp] theorem State.withLabel_outcomes (bytes : List Byte) : (s.withLabel bytes).outcomes = s.outcomes := rfl
@[simp] theorem State.withLabel_program (bytes : List Byte) : (s.withLabel bytes).program = s.program := rfl
@[simp] theorem State.withLabel_index (bytes : List Byte) : (s.withLabel bytes).index = s.index := rfl
@[simp] theorem State.withLabel_env (bytes : List Byte) : (s.withLabel bytes).env = s.env := rfl

/-! ### `State.begun` -/

@[simp] theorem State.begun_csLine : (s.begun).csLine = s.csLine := rfl
@[simp] theorem State.begun_rdyLine : (s.begun).rdyLine = s.rdyLine := rfl
@[simp] theorem State.begun_sclkHz : (s.begun).sclkHz = s.sclkHz := rfl
@[simp] theorem State.begun_fullscale : (s.begun).fullscale = s.fullscale := rfl
@[simp] theorem State.begun_bitOrder : (s.begun).bitOrder = s.bitOrder := rfl
@[simp] theorem State.begun_spiMode : (s.begun).spiMode = s.spiMode := rfl
@[simp] theorem State.begun_params : (s.begun).params = s.params := rfl
@[simp] theorem State.begun_frameBuf : (s.begun).frameBuf = s.frameBuf := rfl
@[simp] theorem State.begun_labelBuf : (s.begun).labelBuf = s.labelBuf := rfl
@[simp] theorem State.begun_bus : (s.begun).bus = s.bus := rfl
@[simp] theorem State.begun_csN : (s.begun).csN = .high := rfl
@[simp] theorem State.begun_started : (s.begun).started = true := rfl
@[simp] theorem State.begun_fault : (s.begun).fault = s.fault := rfl
@[simp] theorem State.begun_refused : (s.begun).refused = s.refused := rfl
@[simp] theorem State.begun_trace : (s.begun).trace = s.trace ++ [.began s.csLine s.rdyLine] := rfl
@[simp] theorem State.begun_outcomes : (s.begun).outcomes = s.outcomes := rfl
@[simp] theorem State.begun_program : (s.begun).program = s.program := rfl
@[simp] theorem State.begun_index : (s.begun).index = s.index := rfl
@[simp] theorem State.begun_env : (s.begun).env = s.env := rfl

/-! ### `State.sampled` -/

@[simp] theorem State.sampled_csLine : (s.sampled).csLine = s.csLine := rfl
@[simp] theorem State.sampled_rdyLine : (s.sampled).rdyLine = s.rdyLine := rfl
@[simp] theorem State.sampled_sclkHz : (s.sampled).sclkHz = s.sclkHz := rfl
@[simp] theorem State.sampled_fullscale : (s.sampled).fullscale = s.fullscale := rfl
@[simp] theorem State.sampled_bitOrder : (s.sampled).bitOrder = s.bitOrder := rfl
@[simp] theorem State.sampled_spiMode : (s.sampled).spiMode = s.spiMode := rfl
@[simp] theorem State.sampled_params : (s.sampled).params = s.params := rfl
@[simp] theorem State.sampled_frameBuf : (s.sampled).frameBuf = s.frameBuf := rfl
@[simp] theorem State.sampled_labelBuf : (s.sampled).labelBuf = s.labelBuf := rfl
@[simp] theorem State.sampled_bus : (s.sampled).bus = s.bus := rfl
@[simp] theorem State.sampled_csN : (s.sampled).csN = s.csN := rfl
@[simp] theorem State.sampled_started : (s.sampled).started = s.started := rfl
@[simp] theorem State.sampled_fault : (s.sampled).fault = s.fault := rfl
@[simp] theorem State.sampled_refused : (s.sampled).refused = s.refused := rfl
@[simp] theorem State.sampled_trace : (s.sampled).trace = s.trace ++ [.drdySample s.drdyNow] := rfl
@[simp] theorem State.sampled_outcomes : (s.sampled).outcomes = s.outcomes := rfl
@[simp] theorem State.sampled_program : (s.sampled).program = s.program := rfl
@[simp] theorem State.sampled_index : (s.sampled).index = s.index := rfl
@[simp] theorem State.sampled_env : (s.sampled).env = { s.env with drdy := s.env.drdy.skip 1 } := rfl

/-! ### `State.withFullscale` -/

@[simp] theorem State.withFullscale_csLine (f : F32) : (s.withFullscale f).csLine = s.csLine := rfl
@[simp] theorem State.withFullscale_rdyLine (f : F32) : (s.withFullscale f).rdyLine = s.rdyLine := rfl
@[simp] theorem State.withFullscale_sclkHz (f : F32) : (s.withFullscale f).sclkHz = s.sclkHz := rfl
@[simp] theorem State.withFullscale_fullscale (f : F32) : (s.withFullscale f).fullscale = f := rfl
@[simp] theorem State.withFullscale_bitOrder (f : F32) : (s.withFullscale f).bitOrder = s.bitOrder := rfl
@[simp] theorem State.withFullscale_spiMode (f : F32) : (s.withFullscale f).spiMode = s.spiMode := rfl
@[simp] theorem State.withFullscale_params (f : F32) : (s.withFullscale f).params = s.params := rfl
@[simp] theorem State.withFullscale_frameBuf (f : F32) : (s.withFullscale f).frameBuf = s.frameBuf := rfl
@[simp] theorem State.withFullscale_labelBuf (f : F32) : (s.withFullscale f).labelBuf = s.labelBuf := rfl
@[simp] theorem State.withFullscale_bus (f : F32) : (s.withFullscale f).bus = s.bus := rfl
@[simp] theorem State.withFullscale_csN (f : F32) : (s.withFullscale f).csN = s.csN := rfl
@[simp] theorem State.withFullscale_started (f : F32) : (s.withFullscale f).started = s.started := rfl
@[simp] theorem State.withFullscale_fault (f : F32) : (s.withFullscale f).fault = s.fault := rfl
@[simp] theorem State.withFullscale_refused (f : F32) : (s.withFullscale f).refused = s.refused := rfl
@[simp] theorem State.withFullscale_trace (f : F32) : (s.withFullscale f).trace = s.trace := rfl
@[simp] theorem State.withFullscale_outcomes (f : F32) : (s.withFullscale f).outcomes = s.outcomes := rfl
@[simp] theorem State.withFullscale_program (f : F32) : (s.withFullscale f).program = s.program := rfl
@[simp] theorem State.withFullscale_index (f : F32) : (s.withFullscale f).index = s.index := rfl
@[simp] theorem State.withFullscale_env (f : F32) : (s.withFullscale f).env = s.env := rfl

end Sys2Proof.Machine
end

