-- ==== Sys2Proof/Laws/Ops.lean ====
section
/-! SUPPORT. What each shared operation of Machine/Ops.lean can do, said once: the environment's feeds, the exchange
of a byte, the buffers, the frame, a list of frames, and a whole bus command. -/

namespace Sys2Proof.Machine

/-! ### Feeds -/

@[simp] theorem Feed.look_skip {α : Type} (free : Nat → α) (f : Feed α) (n k : Nat) :
    (f.skip n).look free k = f.look free (n + k) := by
  simp [Feed.look, Feed.skip, List.getElem?_drop, Nat.add_assoc]

@[simp] theorem Feed.skip_skip {α : Type} (f : Feed α) (m n : Nat) : (f.skip m).skip n = f.skip (m + n) := by
  simp [Feed.skip, List.drop_drop, Nat.add_assoc]

@[simp] theorem Feed.skip_zero {α : Type} (f : Feed α) : f.skip 0 = f := by simp [Feed.skip]

@[simp] theorem State.misoAt_callAsked (s : State) (k : Nat) : s.callAsked.misoAt k = s.misoAt k := rfl

@[simp] theorem State.misoAt_claimAsked (s : State) (k : Nat) : s.claimAsked.misoAt k = s.misoAt k := rfl

@[simp] theorem State.misoAt_claimGranted (s : State) (k : Nat) : s.claimGranted.misoAt k = s.misoAt k := rfl

@[simp] theorem State.misoAt_framed (s : State) (tx rx : List Byte) (k : Nat) :
    (s.framed tx rx).misoAt k = s.misoAt (rx.length + k) := by simp [State.misoAt]

@[simp] theorem State.callAt_callAsked (s : State) (k : Nat) : s.callAsked.callAt k = s.callAt (k + 1) := by
  simp [State.callAt, Nat.add_comm]

@[simp] theorem State.callAt_claimAsked (s : State) (k : Nat) : s.claimAsked.callAt k = s.callAt k := rfl

@[simp] theorem State.callAt_claimGranted (s : State) (k : Nat) : s.claimGranted.callAt k = s.callAt k := rfl

@[simp] theorem State.callAt_framed (s : State) (tx rx : List Byte) (k : Nat) :
    (s.framed tx rx).callAt k = s.callAt k := rfl

/-! ### A byte on the wire -/

theorem length_msbFirstBits (b : Byte) : (msbFirstBits b).length = 8 := by simp [msbFirstBits]

@[simp] theorem byteOfBits_msbFirstBits (b : Byte) : byteOfBits (msbFirstBits b) = b := by
  revert b; decide +kernel

/-- Two clock pulses' samples: from a low clock the one trailing edge is sampled, and the clock is low again. -/
theorem atTrailingEdges_pulse (out inp : Bool) (rest : List LineSample) :
    atTrailingEdges .low (clockPulse out inp ++ rest) =
      ⟨.low, .low, some out, some inp⟩ :: atTrailingEdges .low rest := by
  simp [clockPulse, atTrailingEdges]

theorem atTrailingEdges_pulses (xs : List (Bool × Bool)) (rest : List LineSample) :
    atTrailingEdges .low (xs.flatMap (fun x => clockPulse x.1 x.2) ++ rest) =
      xs.map (fun x => ⟨.low, .low, some x.1, some x.2⟩) ++ atTrailingEdges .low rest := by
  induction xs with
  | nil => rfl
  | cons x xs ih => simp [List.flatMap_cons, List.append_assoc, atTrailingEdges_pulse, ih]

/-- The framer receives the byte the sensor drives (R112). -/
@[simp] theorem exchangeByte_eq (b m : Byte) : exchangeByte b m = m := by
  have h := atTrailingEdges_pulses ((msbFirstBits b).zip (msbFirstBits m)) []
  have hl : (msbFirstBits m).length ≤ (msbFirstBits b).length := by simp [length_msbFirstBits]
  rw [List.append_nil] at h
  have hm : ((fun x : LineSample => x.miso) ∘ fun x : Bool × Bool => (⟨.low, .low, some x.1, some x.2⟩ : LineSample)) =
      fun x => some x.2 := rfl
  have hs : sampledMiso (byteWave b m) = msbFirstBits m := by
    rw [sampledMiso, byteWave, h]
    simp only [atTrailingEdges, List.append_nil, List.filterMap_map, hm]
    rw [List.filterMap_eq_map' (f := fun x : Bool × Bool => x.2), List.map_snd_zip hl]
  rw [exchangeByte, hs, byteOfBits_msbFirstBits]

/-! ### Buffers -/

theorem overwrite_toList {n : Nat} (old : Vector Byte n) (new : List Byte) :
    (overwrite old new).toList = List.take n (new ++ old.toList.drop new.length) := rfl

theorem overwrite_toList_of_le {n : Nat} (old : Vector Byte n) (new : List Byte) (h : new.length ≤ n) :
    (overwrite old new).toList = new ++ old.toList.drop new.length := by
  rw [overwrite_toList, List.take_of_length_le]
  simp; omega

theorem overwrite_take {n : Nat} (old : Vector Byte n) (new more : List Byte) (h : new.length ≤ n) :
    (overwrite old (new ++ more)).toList.take new.length = new := by
  rw [overwrite_toList, List.take_take, Nat.min_eq_left h, List.append_assoc, List.take_left']
  rfl

/-! ### The frame -/

theorem State.received_eq (s : State) (tx : List Byte) :
    s.received tx = (List.range tx.length).map s.misoAt := by
  apply List.ext_getElem <;> simp [State.received]

@[simp] theorem State.length_received (s : State) (tx : List Byte) : (s.received tx).length = tx.length := by
  simp [State.received_eq]

@[simp] theorem State.received_callAsked (s : State) (tx : List Byte) : s.callAsked.received tx = s.received tx := rfl

theorem frame_completes {s : State} {tx : List Byte} (h : s.callAt 0 = .completes) :
    frame tx s = .ok (s.received tx, s.callAsked.framed tx (s.received tx)) := by
  simp [frame, h]

theorem frame_fails {s : State} {tx : List Byte} (h : s.callAt 0 = .fails) :
    frame tx s = .error s.callAsked.frameFailed := by
  simp [frame, h]

/-! ### Frames in order -/

theorem State.answersFrom_shift (s t : State) (m : Nat) (h : ∀ k, t.misoAt k = s.misoAt (m + k)) :
    ∀ (txs : List (List Byte)) (k : Nat), t.answersFrom k txs = s.answersFrom (m + k) txs
  | [], _ => rfl
  | tx :: txs, k => by
    simp only [State.answersFrom, h]
    rw [State.answersFrom_shift s t m h txs, Nat.add_assoc]
    simp [Nat.add_assoc]

/-- The first frame's answer is what `Frame` receives; the others follow it in the sensor's stream. -/
theorem State.answers_cons (s : State) (tx : List Byte) (txs : List (List Byte)) :
    s.answers (tx :: txs) = s.received tx :: (s.callAsked.framed tx (s.received tx)).answers txs := by
  have h := State.answersFrom_shift s (s.callAsked.framed tx (s.received tx)) tx.length (by simp) txs 0
  rw [State.answers, State.answers, h]
  simp [State.answersFrom, State.received_eq]

@[simp] theorem State.answers_nil (s : State) : s.answers [] = [] := rfl

@[simp] theorem State.length_answers : ∀ (txs : List (List Byte)) (s : State), (s.answers txs).length = txs.length
  | [], _ => rfl
  | tx :: txs, s => by rw [State.answers_cons]; simp [State.length_answers txs]

@[simp] theorem State.answers_claimed (s : State) (txs : List (List Byte)) :
    s.claimAsked.claimGranted.answers txs = s.answers txs :=
  State.answersFrom_shift s s.claimAsked.claimGranted 0 (by simp) txs 0

/-- Where frames leave the state that all complete: `u` from `s`. -/
structure FramesSent (txs : List (List Byte)) (s u : State) : Prop where
  trace : u.trace = s.trace ++ frameEvents txs (s.answers txs)
  csN : u.csN = if txs = [] then s.csN else .high
  calls : ∀ k, u.callAt k = s.callAt (txs.length + k)
  others : ∃ buf env, u = { s with trace := u.trace, csN := u.csN, frameBuf := buf, env := env }
  feeds : u.env.claims = s.env.claims ∧ u.env.calls = s.env.calls.skip txs.length ∧
    u.env.miso = s.env.miso.skip (txs.map List.length).sum ∧ u.env.drdy = s.env.drdy
  buffer : (∀ tx ∈ txs, tx.length ≤ 4) → s.bufferHolds u (s.answers txs)

/-- Frames that the bus layer completes (R62, R171): each byte list sent is answered in order. -/
theorem sendFrames_completes : ∀ (txs : List (List Byte)) (s : State), s.callsComplete txs.length →
    ∃ u, sendFrames txs s = .ok (s.answers txs, u) ∧ FramesSent txs s u
  | [], s, _ => ⟨s, rfl, by simp [frameEvents], by simp, by simp, ⟨s.frameBuf, s.env, rfl⟩, by simp, fun _ => rfl⟩
  | tx :: txs, s, h => by
    have h0 : s.callAt 0 = .completes := h 0 (by simp)
    have hrest : (s.callAsked.framed tx (s.received tx)).callsComplete txs.length := by
      intro k hk
      simpa using h (k + 1) (by simpa using hk)
    obtain ⟨u, hu, sent⟩ := sendFrames_completes txs _ hrest
    refine ⟨u, ?_, ?_, ?_, ?_, ?_, ?_, ?_⟩
    · simp [sendFrames, frame_completes h0, hu, State.answers_cons]
    · rw [sent.trace, State.answers_cons]; simp [frameEvents]
    · rw [sent.csN]; simp
    · intro k; rw [sent.calls]; simp only [State.callAt_framed, State.callAt_callAsked, List.length_cons]; congr 1; omega
    · obtain ⟨buf, env, hue⟩ := sent.others
      exact ⟨buf, env, by rw [hue]; rfl⟩
    · obtain ⟨h1, h2, h3, h4⟩ := sent.feeds
      rw [h1, h2, h3, h4]
      simp [State.framed, State.callAsked, Nat.add_comm]
    · intro hlen
      rw [State.answers_cons, State.bufferHolds]
      cases txs with
      | nil =>
        obtain ⟨buf, env, hue⟩ := sent.others
        have hb := sent.buffer (by simp)
        simp only [State.answers_nil, State.bufferHolds, List.getLast?_nil] at hb
        have htx : (s.received tx).length ≤ 4 := by simpa using hlen tx (by simp)
        simp only [State.answers_nil, List.getLast?_singleton]
        rw [hb, State.framed_frameBuf, State.bufferAfter, overwrite_take _ _ _ htx]
      | cons tx' txs =>
        have hb := sent.buffer fun t ht => hlen t (by simp [List.mem_cons] at ht ⊢; tauto)
        rw [State.answers_cons, State.bufferHolds] at hb
        rw [State.answers_cons, List.getLast?_cons_cons]
        exact hb

/-- Frames of which the k-th fails (R281): the ones before it stand in the trace, and the failing call adds no event. -/
theorem sendFrames_fails : ∀ (txs : List (List Byte)) (s : State) (k : Nat), k < txs.length → s.callsComplete k →
    s.callAt k = .fails →
    ∃ u buf cs env, sendFrames txs s = .error u ∧
      u = { s with
            trace := s.trace ++ frameEvents (txs.take k) (s.answers (txs.take k))
            csN := cs, frameBuf := buf, env := env }
  | [], _, _, h, _, _ => by simp at h
  | tx :: txs, s, 0, _, _, hf => by
    refine ⟨s.callAsked.frameFailed, overwrite s.callAsked.frameBuf (s.callAsked.freeBytes 4), s.csN,
      s.callAsked.frameFailed.env, by simp [sendFrames, frame_fails hf], ?_⟩
    simp [frameEvents, State.frameFailed, State.callAsked]
  | tx :: txs, s, k + 1, hk, hc, hf => by
    have h0 : s.callAt 0 = .completes := hc 0 (by simp)
    obtain ⟨u, buf, cs, env, hu, hue⟩ :=
      sendFrames_fails txs (s.callAsked.framed tx (s.received tx)) k (by simpa using hk)
        (fun j hj => by simpa using hc (j + 1) (by omega)) (by simpa using hf)
    refine ⟨u, buf, cs, env, by simp [sendFrames, frame_completes h0, hu], ?_⟩
    rw [hue, List.take_succ_cons, State.answers_cons]
    simp [frameEvents, State.framed, State.callAsked, List.append_assoc]

/-! ### The whole bus command -/

theorem busCommand_waits {s : State} {txs : List (List Byte)} {finish : List (List Byte) → State → State}
    (h : s.claimNow = .notYet) : busCommand txs finish s = .next s.claimAsked := by
  simp [busCommand, busClaim, h]

theorem busCommand_claim_fails {s : State} {txs : List (List Byte)} {finish : List (List Byte) → State → State}
    (h : s.claimNow = .fails) : busCommand txs finish s = .next s.claimAsked.busFailure := by
  simp [busCommand, busClaim, h]

theorem busCommand_frame_fails {s : State} {txs : List (List Byte)} {finish : List (List Byte) → State → State}
    {k : Nat} (hg : s.claimNow = .granted) (hk : k < txs.length) (hc : s.callsComplete k) (hf : s.callAt k = .fails) :
    ∃ t, busCommand txs finish s = .next t ∧
      s.failedTo t (s.claimEvent :: frameEvents (txs.take k) (s.answers (txs.take k))) := by
  obtain ⟨u, buf, cs, env, hu, hue⟩ := sendFrames_fails txs s.claimAsked.claimGranted k hk
    (fun j hj => by simpa using hc j hj) (by simpa using hf)
  refine ⟨u.busFailure, by simp [busCommand, busClaim, hg, hu], ?_⟩
  rw [hue, State.failedTo, State.answers_claimed]
  simp [State.sameConfig, State.claimEvent]

theorem busCommand_release_fails {s : State} {txs : List (List Byte)} {finish : List (List Byte) → State → State}
    (hg : s.claimNow = .granted) (hc : s.callsComplete txs.length) (hf : s.callAt txs.length = .fails) :
    ∃ t, busCommand txs finish s = .next t ∧
      s.failedTo t (s.claimEvent :: frameEvents txs (s.answers txs)) := by
  obtain ⟨u, hu, sent⟩ := sendFrames_completes txs s.claimAsked.claimGranted (fun j hj => by simpa using hc j hj)
  have hr : u.callAt 0 = .fails := by rw [sent.calls]; simpa using hf
  obtain ⟨buf, env, hue⟩ := sent.others
  have htr := sent.trace
  refine ⟨u.callAsked.busFailure, by simp [busCommand, busClaim, hg, hu, busRelease, hr], ?_⟩
  rw [State.failedTo]
  refine ⟨by simp, by simp [htr, State.claimEvent], ?_⟩
  rw [hue]
  simp [State.sameConfig]

/-- A bus command that the bus layer serves ends with `finish` on the bytes received, in a state `v` whose trace is
one claim, the frames and one release (R116, R117). -/
theorem busCommand_served {s : State} {txs : List (List Byte)} {finish : List (List Byte) → State → State}
    (h : s.busServes txs.length) :
    ∃ v, busCommand txs finish s = .next (finish (s.answers txs) v) ∧
      v.trace = s.trace ++ ([s.claimEvent] ++ frameEvents txs (s.answers txs) ++ [.release]) ∧
      v.csN = (if txs = [] then s.csN else .high) ∧
      ((∀ tx ∈ txs, tx.length ≤ 4) → s.bufferHolds v (s.answers txs)) ∧ s.answersTaken v txs ∧
      ∃ buf env, v = { s with trace := v.trace, csN := v.csN, frameBuf := buf, env := env, bus := .released } := by
  obtain ⟨hg, hc⟩ := h
  obtain ⟨u, hu, sent⟩ := sendFrames_completes txs s.claimAsked.claimGranted
    (fun j hj => by simpa using hc j (by omega))
  have hr : u.callAt 0 = .completes := by rw [sent.calls]; simpa using hc txs.length (by simp)
  obtain ⟨buf, env, hue⟩ := sent.others
  refine ⟨u.callAsked.busReleased, by simp [busCommand, busClaim, hg, hu, busRelease, hr], ?_, ?_, ?_, ?_, ?_⟩
  · simp [sent.trace, State.claimEvent]
  · simp [sent.csN]
  · intro hl
    have hb := sent.buffer hl
    simpa [State.bufferHolds] using hb
  · obtain ⟨h1, h2, h3, h4⟩ := sent.feeds
    simp [State.answersTaken, State.busReleased, State.callAsked, State.claimGranted, State.claimAsked, h1, h2, h3, h4]
  · refine ⟨buf, u.callAsked.env, ?_⟩
    rw [hue]
    rfl

/-- Everything a bus command can answer, whatever the bus layer does: a wait, a BusFailure with its claim and some of
its frames in the trace, or its end after one claim, all its frames and one release. -/
theorem busCommand_cases (txs : List (List Byte)) (finish : List (List Byte) → State → State) (s : State) :
    busCommand txs finish s = .next s.claimAsked ∨
    (∃ t events, busCommand txs finish s = .next t ∧ s.failedTo t events ∧
      (events = [] ∨ ∃ k, k ≤ txs.length ∧
        events = s.claimEvent :: frameEvents (txs.take k) (s.answers (txs.take k)))) ∨
    s.busServes txs.length := by
  cases hg : s.claimNow with
  | notYet => exact .inl (busCommand_waits hg)
  | fails =>
    exact .inr (.inl ⟨_, [], busCommand_claim_fails hg, by simp [State.failedTo, State.sameConfig], .inl rfl⟩)
  | granted =>
    by_cases hc : s.callsComplete (txs.length + 1)
    · exact .inr (.inr ⟨hg, hc⟩)
    · have hex : ∃ k, k < txs.length + 1 ∧ s.callAt k ≠ .completes := by
        simpa [State.callsComplete] using hc
      classical
      have hmin : s.callsComplete (Nat.find hex) := fun j hj => by
        by_contra hne
        exact Nat.find_min hex hj ⟨by have := (Nat.find_spec hex).1; omega, hne⟩
      have hfail : s.callAt (Nat.find hex) = .fails := by
        cases h : s.callAt (Nat.find hex) with
        | completes => exact absurd h (Nat.find_spec hex).2
        | fails => rfl
      rcases Nat.lt_succ_iff_lt_or_eq.mp (Nat.find_spec hex).1 with hlt | heq
      · obtain ⟨t, ht, hft⟩ := busCommand_frame_fails (finish := finish) hg hlt hmin hfail
        exact .inr (.inl ⟨t, _, ht, hft, .inr ⟨_, by omega, rfl⟩⟩)
      · rw [heq] at hmin hfail
        obtain ⟨t, ht, hft⟩ := busCommand_release_fails (finish := finish) hg hmin hfail
        exact .inr (.inl ⟨t, _, ht, hft, .inr ⟨txs.length, by omega, by simp⟩⟩)

/-! ### The refusal checks -/

theorem checkRange_wellFormed {i : Instr} {s : State} {act : Answer} (h : i.wellFormed = true) : checkRange i s act = act := by
  simp [checkRange, h]

theorem checkRange_outOfRange {i : Instr} {s : State} {act : Answer} (h : i.wellFormed = false) :
    checkRange i s act = .next (s.afterRefusal .operandRange i) := by
  simp [checkRange, h, State.refuse, State.afterRefusal]

theorem checkStarted_started {i : Instr} {s : State} {act : Answer} (h : i.wellFormed = true) (hs : s.started = true) :
    checkStarted i s act = act := by
  simp [checkStarted, checkRange, h, hs]

theorem checkStarted_notStarted {i : Instr} {s : State} {act : Answer} (h : i.wellFormed = true)
    (hs : s.started = false) : checkStarted i s act = .next (s.afterRefusal .notStarted i) := by
  simp [checkStarted, checkRange, h, hs, State.refuse, State.afterRefusal]

end Sys2Proof.Machine
end

