-- ==== Sys2Proof/Laws/Exec.lean ====
section
/-! SUPPORT. What `exec` can do with a command, said once for all commands: a refusal where a check fails, a bus
command over the frames the encoder gives, or one of the commands without frames. -/

namespace Sys2Proof.Machine

/-! ### The range checks (R94) as inequalities -/

theorem wellFormed_sendCommand (cmd : Nat) : (Instr.sendCommand cmd).wellFormed = true ↔ cmd < 256 := decide_eq_true_iff

theorem wellFormed_readRegister (reg : Nat) : (Instr.readRegister reg).wellFormed = true ↔ reg < 64 := decide_eq_true_iff

theorem wellFormed_writeRegister (reg value : Nat) :
    (Instr.writeRegister reg value).wellFormed = true ↔ reg < 64 ∧ value < 16777216 := by
  simp only [Instr.wellFormed, Bool.and_eq_true, decide_eq_true_iff]; exact Iff.rfl

theorem wellFormed_writeMemory (addr : Nat) (data : List Nat) :
    (Instr.writeMemory addr data).wellFormed = true ↔ ∀ d ∈ data, d < 256 := by
  simp only [Instr.wellFormed, List.all_eq_true, decide_eq_true_iff]; exact Iff.rfl

theorem wellFormed_signExtend24 (raw : Nat) : (Instr.signExtend24 raw).wellFormed = true ↔ raw < 4294967296 :=
  decide_eq_true_iff

theorem wellFormed_convertPressure (raw : Nat) (f : F32) :
    (Instr.convertPressure raw f).wellFormed = true ↔ raw < 4294967296 := decide_eq_true_iff

theorem wellFormed_convertPressureStored (raw : Nat) :
    (Instr.convertPressureStored raw).wellFormed = true ↔ raw < 4294967296 := decide_eq_true_iff

theorem wellFormed_convertTemperature (raw : Nat) :
    (Instr.convertTemperature raw).wellFormed = true ↔ raw < 4294967296 := decide_eq_true_iff


/-- A command's end writes at most LABEL_BUF before it hands its result to the host. -/
def EndsWithResult (finish : List (List Byte) → State → State) : Prop :=
  ∀ rxs v, ∃ r label, finish rxs v = { v with
    labelBuf := label, outcomes := v.outcomes ++ [.ok r], index := v.index + 1 }

theorem endsWithResult_unit : EndsWithResult finishUnit := fun _ v => ⟨.unit, v.labelBuf, rfl⟩

theorem endsWithResult_register : EndsWithResult finishRegister := fun _ v => ⟨_, v.labelBuf, rfl⟩

theorem endsWithResult_bytes : EndsWithResult finishBytes := fun _ v => ⟨_, v.labelBuf, rfl⟩

theorem endsWithResult_label : EndsWithResult finishLabel := fun rxs v => ⟨_, overwrite v.labelBuf (dataBytes rxs), rfl⟩

theorem endsWithResult_crc : EndsWithResult finishCrc := fun _ v => ⟨_, v.labelBuf, rfl⟩

theorem Instr.isBusCommand_iff (i : Instr) :
    i.isBusCommand = true ↔ i.needsBegin = true ∧ i ≠ .isDataAvailable := by
  simp [Instr.isBusCommand]

/-- A started command at an OPEN address that has a value runs its bus command on the encoder's frames. -/
theorem execOpen_value {i : Instr} {s : State} {v : MemVariant} {n : Nat} {p : Option Nat}
    {finish : List (List Byte) → State → State} (hw : i.wellFormed = true) (hs : s.started = true)
    (hp : some p ≠ some none)
    (hx : exec i s = checkStarted i s (withParameter i p s fun a =>
      busCommand (spanFrames v a (placeholders n)) finish s))
    (he : encodeFrames s.params i = openReadSpan v n p) :
    exec i s = busCommand (encodeFrames s.params i) finish s := by
  cases p with
  | none => exact absurd rfl hp
  | some a => rw [hx, he, checkStarted_started hw hs]; rfl

/-- A started command at an OPEN address without a value is refused (R95, check 3). -/
theorem execOpen_none {i : Instr} {s : State} {p : Option Nat} {act : Nat → Answer} (hw : i.wellFormed = true)
    (hs : s.started = true) (hp : some p = some none)
    (hx : exec i s = checkStarted i s (withParameter i p s act)) :
    exec i s = .next (s.afterRefusal .parameterOpen i) := by
  cases hp
  rw [hx, checkStarted_started hw hs]
  rfl

/-- An admitted bus command is a claim, the frames of the encoder, a release and an end that hands over a result. -/
theorem exec_bus {i : Instr} {s : State} (hb : i.isBusCommand = true) (ha : i.admitted s) :
    ∃ finish, EndsWithResult finish ∧ exec i s = busCommand (encodeFrames s.params i) finish s := by
  obtain ⟨hb, hne⟩ := (Instr.isBusCommand_iff i).mp hb
  obtain ⟨hw, hst, hp⟩ := ha
  have hs := hst hb
  cases i with
  | readProductNumber => exact ⟨finishLabel, endsWithResult_label, execOpen_value hw hs hp rfl rfl⟩
  | readSerialNumber => exact ⟨finishLabel, endsWithResult_label, execOpen_value hw hs hp rfl rfl⟩
  | readFullscaleLabel1 => exact ⟨finishLabel, endsWithResult_label, execOpen_value hw hs hp rfl rfl⟩
  | readFullscaleLabel2 => exact ⟨finishLabel, endsWithResult_label, execOpen_value hw hs hp rfl rfl⟩
  | readDeviceType => exact ⟨finishLabel, endsWithResult_label, execOpen_value hw hs hp rfl rfl⟩
  | readSpeedClass => exact ⟨finishLabel, endsWithResult_label, execOpen_value hw hs hp rfl rfl⟩
  | readSramCrc => exact ⟨finishCrc, endsWithResult_crc, execOpen_value hw hs hp rfl rfl⟩
  | readOtpCrc => exact ⟨finishCrc, endsWithResult_crc, execOpen_value hw hs hp rfl rfl⟩
  | _ => first
    | exact ⟨_, endsWithResult_unit, checkStarted_started hw hs⟩
    | exact ⟨_, endsWithResult_register, checkStarted_started hw hs⟩
    | exact ⟨_, endsWithResult_bytes, checkStarted_started hw hs⟩
    | exact ⟨_, endsWithResult_label, checkStarted_started hw hs⟩
    | exact absurd rfl hne
    | simp [Instr.needsBegin] at hb

/-- A command that fails a check is refused, and nothing else happens (R95). -/
theorem exec_not_admitted {i : Instr} {s : State} (h : ¬ i.admitted s) :
    ∃ why, exec i s = .next (s.afterRefusal why i) := by
  by_cases hw : i.wellFormed = true
  · by_cases hs : i.needsBegin = true ∧ s.started = false
    · obtain ⟨hb, hs⟩ := hs
      refine ⟨.notStarted, ?_⟩
      cases i <;> first
        | exact checkStarted_notStarted hw hs
        | simp [Instr.needsBegin] at hb
    · have hst : i.needsBegin = true → s.started = true := by
        intro hb; by_contra hn; exact hs ⟨hb, by simpa using hn⟩
      have hp : i.openParameter s.params = some none := by
        by_contra hp; exact h ⟨hw, hst, hp⟩
      refine ⟨.parameterOpen, ?_⟩
      cases i with
      | readProductNumber => exact execOpen_none hw (hst rfl) hp rfl
      | readSerialNumber => exact execOpen_none hw (hst rfl) hp rfl
      | readFullscaleLabel1 => exact execOpen_none hw (hst rfl) hp rfl
      | readFullscaleLabel2 => exact execOpen_none hw (hst rfl) hp rfl
      | readDeviceType => exact execOpen_none hw (hst rfl) hp rfl
      | readSpeedClass => exact execOpen_none hw (hst rfl) hp rfl
      | readSramCrc => exact execOpen_none hw (hst rfl) hp rfl
      | readOtpCrc => exact execOpen_none hw (hst rfl) hp rfl
      | _ => simp [Instr.openParameter] at hp
  · have hw : i.wellFormed = false := by simpa using hw
    refine ⟨.operandRange, ?_⟩
    cases i <;> exact checkRange_outOfRange hw

/-- An admitted command that is no bus command completes at once (R260, R261, R231 to R235): what it may write is
FULLSCALE by SET_FULLSCALE, CS_N and STARTED by BEGIN, and an event by BEGIN and IS_DATA_AVAILABLE. -/
theorem exec_other {i : Instr} {s : State} (hb : i.isBusCommand = false) (ha : i.admitted s) :
    ∃ t r env events, exec i s = .next t ∧
      t = { s with
        fullscale := t.fullscale, csN := t.csN, started := t.started, trace := s.trace ++ events
        outcomes := s.outcomes ++ [.ok r], index := s.index + 1, env := env } ∧
      ((∀ f, i ≠ .setFullscale f) → t.fullscale = s.fullscale) ∧
      (i = .beginLines → t.csN = .high ∧ t.started = true ∧ events = [.began s.csLine s.rdyLine]) ∧
      (i ≠ .beginLines → t.csN = s.csN ∧ t.started = s.started ∧
        (events = [] ∨ ∃ level, events = [.drdySample level])) ∧
      ∀ bs, r ≠ .label bs := by
  obtain ⟨hw, hst, hp⟩ := ha
  cases i with
  | beginLines =>
    exact ⟨s.begun.complete .unit, .unit, s.env, [.began s.csLine s.rdyLine],
      checkRange_wellFormed (s := s) hw, rfl, fun _ => rfl,
      fun _ => ⟨rfl, rfl, rfl⟩, fun h => absurd rfl h, fun _ => by simp⟩
  | isDataAvailable =>
    exact ⟨_, _, s.sampled.env, [.drdySample s.drdyNow], checkStarted_started hw (hst rfl), rfl, fun _ => rfl,
      fun h => by simp at h, fun _ => ⟨rfl, rfl, .inr ⟨_, rfl⟩⟩, fun _ => by simp⟩
  | setFullscale f =>
    exact ⟨_, .unit, s.env, [], checkRange_wellFormed (s := s) hw, by simp [State.complete, State.withFullscale],
      fun h => absurd rfl (h f), fun h => by simp at h, fun _ => ⟨rfl, rfl, .inl rfl⟩, fun _ => by simp⟩
  | signExtend24 raw =>
    exact ⟨_, .int32 (Machine.signExtend24 raw), s.env, [], checkRange_wellFormed (s := s) hw, by simp [State.complete],
      fun _ => rfl, fun h => by simp at h, fun _ => ⟨rfl, rfl, .inl rfl⟩, fun _ => by simp⟩
  | convertPressure raw f =>
    exact ⟨_, .binary32 (pressureOf s.nanNow raw f), s.drawn.env, [],
      checkRange_wellFormed (s := s) hw, by simp [State.complete, State.drawn],
      fun _ => rfl, fun h => by simp at h, fun _ => ⟨rfl, rfl, .inl rfl⟩, fun _ => by simp⟩
  | convertPressureStored raw =>
    exact ⟨_, .binary32 (pressureOf s.nanNow raw s.fullscale), s.drawn.env, [],
      checkRange_wellFormed (s := s) hw, by simp [State.complete, State.drawn],
      fun _ => rfl, fun h => by simp at h, fun _ => ⟨rfl, rfl, .inl rfl⟩, fun _ => by simp⟩
  | convertTemperature raw =>
    exact ⟨_, .binary32 (temperatureOf s.nanNow raw), s.drawn.env, [],
      checkRange_wellFormed (s := s) hw, by simp [State.complete, State.drawn],
      fun _ => rfl, fun h => by simp at h, fun _ => ⟨rfl, rfl, .inl rfl⟩, fun _ => by simp⟩
  | _ => simp [Instr.isBusCommand, Instr.needsBegin] at hb

/-- Where an admitted bus command leads, whatever the bus layer does. -/
inductive BusOutcome (i : Instr) (s t : State) : Prop where
  /-- the claim is not granted yet -/
  | waits (h : t = s.claimAsked)
  /-- a call fails, after no event or after the claim and some frames -/
  | fails (events : List BusEvent) (h : s.failedTo t events)
      (he : events = [] ∨ ∃ k, events =
        s.claimEvent :: frameEvents ((encodeFrames s.params i).take k) (s.answers ((encodeFrames s.params i).take k)))
  /-- the command is served and completes -/
  | served (r : Result) (buf : Vector Byte 4) (label : Vector Byte 32) (env : Env)
      (h : t = { s with
        trace := s.trace ++ ([s.claimEvent] ++
          frameEvents (encodeFrames s.params i) (s.answers (encodeFrames s.params i)) ++ [.release])
        csN := if encodeFrames s.params i = [] then s.csN else .high
        frameBuf := buf, labelBuf := label, env := env, bus := .released
        outcomes := s.outcomes ++ [.ok r], index := s.index + 1 })

/-- `exec` of an admitted bus command answers a next state, and it is one of these (R115, R116, R117, R281). -/
theorem exec_bus_cases {i : Instr} {s : State} (hb : i.isBusCommand = true) (ha : i.admitted s) :
    ∃ t, exec i s = .next t ∧ BusOutcome i s t := by
  obtain ⟨finish, hfin, he⟩ := exec_bus hb ha
  rcases busCommand_cases (encodeFrames s.params i) finish s with hw | ⟨t, events, ht, hf, hev⟩ | hs
  · exact ⟨_, he.trans hw, .waits rfl⟩
  · refine ⟨t, he.trans ht, .fails events hf ?_⟩
    rcases hev with h | ⟨k, _, h⟩
    · exact .inl h
    · exact .inr ⟨k, h⟩
  · obtain ⟨v, hv, htr, hcs, -, -, buf, env, hve⟩ := busCommand_served (finish := finish) hs
    obtain ⟨r, label, hr⟩ := hfin (s.answers (encodeFrames s.params i)) v
    refine ⟨_, he.trans hv, .served r buf label env ?_⟩
    rw [hr, hve]
    simp [htr, hcs]

/-- Every command of every kind answers a next state: a refusal, a bus command's outcome, or a command without frames. -/
theorem exec_cases (i : Instr) (s : State) :
    (∃ why, exec i s = .next (s.afterRefusal why i)) ∨
    (i.isBusCommand = true ∧ i.admitted s ∧ ∃ t, exec i s = .next t ∧ BusOutcome i s t) ∨
    (i.isBusCommand = false ∧ i.admitted s) := by
  by_cases ha : i.admitted s
  · cases hb : i.isBusCommand with
    | true => exact .inr (.inl ⟨rfl, ha, exec_bus_cases hb ha⟩)
    | false => exact .inr (.inr ⟨rfl, ha⟩)
  · exact .inl (exec_not_admitted ha)

/-- The behaviour of a started bus command from its shape: what `finish` makes of the answers is the result `r`, and
LABEL_BUF after it is as `label` says (R116, R117, R281). -/
theorem busBehaviour_of {i : Instr} {s : State} {txs : List (List Byte)} {r : Result} {label : Option (List Byte)}
    {finish : List (List Byte) → State → State} (he : exec i s = busCommand txs finish s)
    (hlen : ∀ tx ∈ txs, tx.length ≤ 4)
    (hfin : ∀ v : State, v.labelBuf = s.labelBuf → ∃ lb : Vector Byte 32,
      finish (s.answers txs) v =
        { v with labelBuf := lb, outcomes := v.outcomes ++ [.ok r], index := v.index + 1 } ∧
      (label = none → lb = s.labelBuf) ∧
      (∀ bytes, label = some bytes → lb.toList = bytes ++ s.labelBuf.toList.drop bytes.length)) :
    s.busBehaviour i txs r label := by
  refine ⟨fun hs => ?_, fun h => ?_, fun k hk hg hc hf => ?_, fun hg hc hf => ?_⟩
  · obtain ⟨v, hv, htr, hcs, hbuf, htaken, buf, env, hve⟩ := busCommand_served (finish := finish) hs
    obtain ⟨lb, hlb, hnone, hsome⟩ := hfin v (by rw [hve])
    refine ⟨_, he.trans hv, ?_⟩
    rw [hlb]
    refine ⟨htr, by rw [hve], by rw [hve], by rw [hve], hcs, hbuf hlen, ?_, by rw [hve]; simp [State.sameConfig],
      by rw [hve], by rw [hve], by rw [hve], by rw [hve], htaken⟩
    cases label with
    | none => exact hnone rfl
    | some bytes => exact hsome bytes rfl
  · exact ⟨_, he.trans (busCommand_claim_fails h), by simp [State.failedTo, State.sameConfig]⟩
  · obtain ⟨t, ht, hft⟩ := busCommand_frame_fails (finish := finish) hg hk hc hf
    exact ⟨t, he.trans ht, hft⟩
  · obtain ⟨t, ht, hft⟩ := busCommand_release_fails (finish := finish) hg hc hf
    exact ⟨t, he.trans ht, hft⟩

end Sys2Proof.Machine
end

