-- ==== Sys2Proof/Laws/Float.lean ====
section
/-! SUPPORT. One spec lemma for each function of Machine/Float.lean: the fields of an assembled pattern, the rounded
quotient, the binary exponent, and the magnitude that rounded bits stand for. -/

namespace Sys2Proof.Machine

/-! ### Patterns assembled from a sign and magnitude bits -/

theorem toNat_f32Of (neg : Bool) {m : Nat} (h : m < 2147483648) :
    (f32Of neg m).toNat = m + if neg then 2147483648 else 0 := by
  cases neg
  · simp [f32Of, Nat.mod_eq_of_lt h]; omega
  · simp [f32Of, Nat.mod_eq_of_lt h]; omega

theorem f32Neg_f32Of (neg : Bool) {m : Nat} (h : m < 2147483648) : f32Neg (f32Of neg m) = neg := by
  have h2 := toNat_f32Of neg h
  rw [f32Neg, BitVec.getLsbD, h2, Nat.testBit_eq_decide_div_mod_eq]
  cases neg <;> simp
  all_goals omega

theorem f32Exp_f32Of (neg : Bool) {m : Nat} (h : m < 2147483648) : f32Exp (f32Of neg m) = m / 8388608 := by
  rw [f32Exp, toNat_f32Of neg h, Nat.shiftRight_eq_div_pow]
  cases neg <;> simp
  all_goals omega

theorem f32Frac_f32Of (neg : Bool) {m : Nat} (h : m < 2147483648) : f32Frac (f32Of neg m) = m % 8388608 := by
  rw [f32Frac, toNat_f32Of neg h]
  cases neg <;> simp
  all_goals omega

theorem f32IsFinite_f32Of (neg : Bool) {m : Nat} (h : m < f32InfBits) : f32IsFinite (f32Of neg m) = true := by
  have hb : f32InfBits = 2139095040 := rfl
  rw [f32IsFinite, f32Exp_f32Of neg (by omega)]
  simp; omega

theorem f32IsInf_f32Of (neg : Bool) : f32IsInf (f32Of neg f32InfBits) = true := by cases neg <;> decide

/-- The magnitude of a significand laid on its exponent: `sig` counted in units of 2^(e-149), where a subnormal has
e = 0 and a normal number keeps 24 significant bits; 2^24 carries into the exponent. -/
theorem f32Magnitude_of_bits (neg : Bool) (e sig : Nat) (hs : sig ≤ 16777216) (hn : 0 < e → 8388608 ≤ sig)
    (hf : e * 8388608 + sig < f32InfBits) :
    f32Magnitude (f32Of neg (e * 8388608 + sig)) = (sig : ℚ) * 2 ^ ((e : Int) - 149) ∧
      (sig % 2 = 0 → f32Sig (f32Of neg (e * 8388608 + sig)) % 2 = 0) := by
  have hb : f32InfBits = 2139095040 := rfl
  have hm : e * 8388608 + sig < 2147483648 := by omega
  rw [f32Magnitude, f32Sig, f32Scale, f32Exp_f32Of neg hm, f32Frac_f32Of neg hm]
  have hadd : e * 8388608 + sig = sig + 8388608 * e := by ring
  rw [hadd, Nat.add_mul_div_left _ _ (by norm_num), Nat.add_mul_mod_self_left]
  rcases lt_trichotomy sig 8388608 with h | h | h
  · have he : e = 0 := by by_contra hne; have := hn (by omega); omega
    subst he
    simp [Nat.div_eq_of_lt h, Nat.mod_eq_of_lt h]
  · subst h
    simp only [show 8388608 / 8388608 + e ≠ 0 by omega, if_false]
    refine ⟨?_, by norm_num⟩
    norm_num
    ring
  · rcases Nat.lt_or_eq_of_le hs with h24 | h24
    · have hd : sig / 8388608 = 1 := by omega
      have hr : sig % 8388608 + 8388608 = sig := by omega
      simp only [hd, show 1 + e ≠ 0 by omega, if_false, hr]
      refine ⟨?_, fun h => h⟩
      congr 2; push_cast; ring
    · subst h24
      simp only [show 16777216 / 8388608 + e ≠ 0 by omega, if_false]
      refine ⟨?_, by norm_num⟩
      norm_num
      rw [show (2 + (e : Int) - 150) = ((e : Int) - 149) + 1 by ring, zpow_add_one₀ (by norm_num)]
      ring

/-! ### The rounded quotient -/

/-- `rneDiv n d` is within a half of n/d, and even where it is a half away. -/
theorem rneDiv_spec (n : Nat) {d : Nat} (hd : 0 < d) :
    2 * n ≤ 2 * d * rneDiv n d + d ∧ 2 * d * rneDiv n d ≤ 2 * n + d ∧
      ((2 * n = 2 * d * rneDiv n d + d ∨ 2 * d * rneDiv n d = 2 * n + d) → rneDiv n d % 2 = 0) := by
  have h := Nat.div_add_mod n d
  have hr := Nat.mod_lt n hd
  unfold rneDiv
  generalize n / d = q at h ⊢
  generalize n % d = r at h hr ⊢
  subst h
  simp only
  split
  · refine ⟨by nlinarith, by nlinarith, ?_⟩
    rintro (h | h) <;> nlinarith
  · split
    · refine ⟨by nlinarith, by nlinarith, ?_⟩
      rintro (h | h) <;> nlinarith
    · have h2 : 2 * r = d := by omega
      rcases Nat.mod_two_eq_zero_or_one q with hq | hq
      · rw [hq]
        exact ⟨by nlinarith, by nlinarith, fun _ => by omega⟩
      · rw [hq]
        exact ⟨by nlinarith, by nlinarith, fun _ => by omega⟩

/-! ### The binary exponent -/

/-- `floorLog2 n d` is the k with 2^k at most n/d and n/d below 2^(k+1). -/
theorem floorLog2_spec {n d : Nat} (hn : 0 < n) (hd : 0 < d) :
    (2 : ℚ) ^ floorLog2 n d ≤ (n : ℚ) / d ∧ (n : ℚ) / d < 2 ^ (floorLog2 n d + 1) := by
  have hnl : 2 ^ Nat.log2 n ≤ n := Nat.log2_self_le hn.ne'
  have hnu : n < 2 ^ (Nat.log2 n + 1) := Nat.lt_log2_self
  have hdl : 2 ^ Nat.log2 d ≤ d := Nat.log2_self_le hd.ne'
  have hdu : d < 2 ^ (Nat.log2 d + 1) := Nat.lt_log2_self
  have hdq : (0 : ℚ) < d := by exact_mod_cast hd
  have e1 : (2 : ℚ) ^ (Nat.log2 n : Int) ≤ n := by exact_mod_cast hnl
  have e2 : (n : ℚ) < 2 ^ ((Nat.log2 n : Int) + 1) := by exact_mod_cast hnu
  have e3 : (2 : ℚ) ^ (Nat.log2 d : Int) ≤ d := by exact_mod_cast hdl
  have e4 : (d : ℚ) < 2 ^ ((Nat.log2 d : Int) + 1) := by exact_mod_cast hdu
  have two : (2 : ℚ) ≠ 0 := by norm_num
  have key : ∀ g : Int, (d * 2 ^ g.toNat ≤ n * 2 ^ (-g).toNat ↔ (2 : ℚ) ^ g ≤ (n : ℚ) / d) := by
    intro g
    rw [le_div_iff₀ hdq]
    rcases le_total 0 g with hg | hg
    · obtain ⟨m, rfl⟩ := Int.eq_ofNat_of_zero_le hg
      simp only [Int.toNat_natCast, Int.toNat_neg_natCast, pow_zero, mul_one, zpow_natCast]
      rw [mul_comm]
      exact_mod_cast Iff.rfl
    · obtain ⟨m, hm⟩ := Int.eq_ofNat_of_zero_le (neg_nonneg.mpr hg)
      obtain rfl : g = -(m : Int) := by omega
      simp only [neg_neg, Int.toNat_natCast, Int.toNat_neg_natCast, pow_zero, mul_one, zpow_neg, zpow_natCast]
      rw [inv_mul_le_iff₀ (by positivity), mul_comm]
      exact_mod_cast Iff.rfl
  unfold floorLog2
  simp only
  set g : Int := (Nat.log2 n : Int) - (Nat.log2 d : Int) with hg
  have hup : (n : ℚ) / d < 2 ^ (g + 1) := by
    rw [div_lt_iff₀ hdq]
    calc (n : ℚ) < 2 ^ ((Nat.log2 n : Int) + 1) := e2
      _ = 2 ^ (g + 1) * 2 ^ (Nat.log2 d : Int) := by rw [← zpow_add₀ two]; congr 1; omega
      _ ≤ 2 ^ (g + 1) * d := by gcongr
  have hlow : (2 : ℚ) ^ (g - 1) ≤ (n : ℚ) / d := by
    rw [le_div_iff₀ hdq]
    calc (2 : ℚ) ^ (g - 1) * d ≤ 2 ^ (g - 1) * 2 ^ ((Nat.log2 d : Int) + 1) := by gcongr
      _ = 2 ^ (Nat.log2 n : Int) := by rw [← zpow_add₀ two]; congr 1; omega
      _ ≤ n := e1
  split
  · rename_i h; exact ⟨(key g).mp h, hup⟩
  · rename_i h
    refine ⟨hlow, ?_⟩
    rw [sub_add_cancel]
    exact lt_of_not_ge fun hge => h ((key g).mpr hge)

end Sys2Proof.Machine
end

