-- ==== Sys2Proof/Laws/Frames.lean ====
section
/-! SUPPORT. The frames of the encoder: their opcodes as arithmetic, their forms, and spans as lists. -/

namespace Sys2Proof.Machine

/-- Or-ing an opcode base with the address bits below it adds them. -/
theorem or_low_bits {base k x : Nat} (hx : x < 2 ^ k) (hb : base % 2 ^ k = 0) : base ||| x = base + x := by
  have h : base = 2 ^ k * (base / 2 ^ k) := by
    have := Nat.div_add_mod base (2 ^ k); omega
  rw [h, ← Nat.two_pow_add_eq_or_of_lt hx]

theorem shift8_and15 (a : Nat) : (a >>> 8) &&& 15 = a / 256 % 16 := by
  rw [Nat.shiftRight_eq_div_pow, show (15 : Nat) = 2 ^ 4 - 1 from rfl, Nat.and_two_pow_sub_one_eq_mod]

theorem shift8_and31 (a : Nat) : (a >>> 8) &&& 31 = a / 256 % 32 := by
  rw [Nat.shiftRight_eq_div_pow, show (31 : Nat) = 2 ^ 5 - 1 from rfl, Nat.and_two_pow_sub_one_eq_mod]

theorem and255 (a : Nat) : a &&& 255 = a % 256 := by
  rw [show (255 : Nat) = 2 ^ 8 - 1 from rfl, Nat.and_two_pow_sub_one_eq_mod]

/-- byte0 of a main-memory read frame (R83). -/
theorem memFrame_mainRead (a : Nat) (d : Byte) :
    memFrame .mainRead a d = [byteOf (0x10 + a / 256 % 16), byteOf (a % 256), d] := by
  rw [memFrame, memOpcodeBase, memAddrMask, shift8_and15, and255,
    or_low_bits (k := 4) (x := a / 256 % 16) (Nat.mod_lt _ (by decide)) (by decide)]

/-- byte0 of a main-memory write frame (R83). -/
theorem memFrame_mainWrite (a : Nat) (d : Byte) :
    memFrame .mainWrite a d = [byteOf (0x90 + a / 256 % 16), byteOf (a % 256), d] := by
  rw [memFrame, memOpcodeBase, memAddrMask, shift8_and15, and255,
    or_low_bits (k := 4) (x := a / 256 % 16) (Nat.mod_lt _ (by decide)) (by decide)]

/-- byte0 of an OTP read frame (R83). -/
theorem memFrame_otpRead (a : Nat) (d : Byte) :
    memFrame .otpRead a d = [byteOf (0x20 + a / 256 % 32), byteOf (a % 256), d] := by
  rw [memFrame, memOpcodeBase, memAddrMask, shift8_and31, and255,
    or_low_bits (k := 5) (x := a / 256 % 32) (Nat.mod_lt _ (by decide)) (by decide)]

theorem length_memFrame (v : MemVariant) (a : Nat) (d : Byte) : (memFrame v a d).length = 3 := rfl

theorem regReadFrame_eq {reg : Nat} (h : reg < 64) : regReadFrame reg = [byteOf (0x40 + reg), 0, 0, 0] := by
  rw [regReadFrame, Nat.or_comm, or_low_bits (k := 6) h (by decide)]

theorem regWriteFrame_eq {reg : Nat} (value : Nat) (h : reg < 64) :
    regWriteFrame reg value =
      [byteOf (0xC0 + reg), byteOf (value / 2 ^ 16), byteOf (value / 2 ^ 8 % 256), byteOf (value % 256)] := by
  rw [regWriteFrame, Nat.or_comm, or_low_bits (k := 6) h (by decide), Nat.shiftRight_eq_div_pow,
    Nat.shiftRight_eq_div_pow]
  have h1 : byteOf (value / 2 ^ 8) = byteOf (value / 2 ^ 8 % 256) := by
    apply BitVec.eq_of_toNat_eq; simp
  have h2 : byteOf value = byteOf (value % 256) := by
    apply BitVec.eq_of_toNat_eq; simp
  rw [h1, h2]

/-- A span's k-th frame is the frame of address a + k (R171). -/
theorem spanFrames_eq_map (v : MemVariant) : ∀ (ds : List Byte) (a : Nat),
    spanFrames v a ds = (List.range ds.length).map fun k => memFrame v (a + k) (ds.getD k 0)
  | [], _ => rfl
  | d :: ds, a => by
    rw [spanFrames, spanFrames_eq_map v ds, List.length_cons, List.range_succ_eq_map]
    simp [Nat.add_comm, Nat.add_left_comm]

@[simp] theorem length_spanFrames (v : MemVariant) (ds : List Byte) (a : Nat) :
    (spanFrames v a ds).length = ds.length := by simp [spanFrames_eq_map]

@[simp] theorem length_placeholders (n : Nat) : (placeholders n).length = n := by simp [placeholders]

/-- Every frame of a span is a frame of the variant. -/
theorem mem_spanFrames {v : MemVariant} {ds : List Byte} {a : Nat} {tx : List Byte} (h : tx ∈ spanFrames v a ds) :
    ∃ k d, tx = memFrame v k d := by
  rw [spanFrames_eq_map] at h
  obtain ⟨k, _, rfl⟩ := List.mem_map.mp h
  exact ⟨_, _, rfl⟩

theorem toNat_byteOf {n : Nat} (h : n < 256) : (byteOf n).toNat = n := by
  simp [byteOf, BitVec.toNat_ofNat, Nat.mod_eq_of_lt h]

theorem legalFrame_command (cmd : Nat) : legalFrame (commandFrame cmd) := .inl rfl

theorem legalFrame_regRead {reg : Nat} (h : reg < 64) : legalFrame (regReadFrame reg) := by
  rw [regReadFrame_eq h]
  refine .inr (.inr ⟨rfl, .inl ?_⟩)
  simp only [byteAt, List.getD_cons_zero, toNat_byteOf (show 0x40 + reg < 256 by omega)]
  omega

theorem legalFrame_regWrite {reg : Nat} (value : Nat) (h : reg < 64) : legalFrame (regWriteFrame reg value) := by
  rw [regWriteFrame_eq value h]
  refine .inr (.inr ⟨rfl, .inr ?_⟩)
  simp only [byteAt, List.getD_cons_zero, toNat_byteOf (show 0xC0 + reg < 256 by omega)]
  omega

theorem legalFrame_memFrame (v : MemVariant) (a : Nat) (d : Byte) : legalFrame (memFrame v a d) := by
  refine .inr (.inl ⟨rfl, ?_⟩)
  cases v with
  | mainRead =>
    rw [memFrame_mainRead]
    simp only [byteAt, List.getD_cons_zero, toNat_byteOf (show 0x10 + a / 256 % 16 < 256 by omega)]
    omega
  | mainWrite =>
    rw [memFrame_mainWrite]
    simp only [byteAt, List.getD_cons_zero, toNat_byteOf (show 0x90 + a / 256 % 16 < 256 by omega)]
    omega
  | otpRead =>
    rw [memFrame_otpRead]
    simp only [byteAt, List.getD_cons_zero, toNat_byteOf (show 0x20 + a / 256 % 32 < 256 by omega)]
    omega

theorem legalFrame_span {v : MemVariant} {ds : List Byte} {a : Nat} {tx : List Byte} (h : tx ∈ spanFrames v a ds) :
    legalFrame tx := by
  obtain ⟨k, d, rfl⟩ := mem_spanFrames h
  exact legalFrame_memFrame v k d

theorem legalFrame_openRead {v : MemVariant} {n : Nat} {p : Option Nat} {tx : List Byte}
    (h : tx ∈ openReadSpan v n p) : legalFrame tx := by
  cases p with
  | none => simp [openReadSpan] at h
  | some a => exact legalFrame_span h

/-- Every frame the framer sends has a class (R90). -/
theorem classifyFrame_of_legalFrame {tx : List Byte} (h : legalFrame tx) : ∃ c, classifyFrame tx = .ok c := by
  match tx, h with
  | [b0], _ => exact ⟨.command b0, rfl⟩
  | [b0, b1, b2], h =>
    simp only [legalFrame, byteAt, List.length_cons, List.length_nil, List.getD_cons_zero] at h
    exact ⟨.memory b0 b1 b2, if_pos (by omega)⟩
  | [b0, b1, b2, b3], h =>
    simp only [legalFrame, byteAt, List.length_cons, List.length_nil, List.getD_cons_zero] at h
    exact ⟨.register b0 b1 b2 b3, if_pos (by omega)⟩
  | [], h => simp [legalFrame] at h
  | [_, _], h => simp [legalFrame] at h
  | _ :: _ :: _ :: _ :: _ :: _, h => simp [legalFrame] at h

/-- A frame with a class is decoded by its class. -/
theorem decodeFrame_of_class {bs : List Byte} {c : FrameClass} (h : classifyFrame bs = .ok c) :
    decodeFrame bs = decodeClass c := by
  rw [decodeFrame, h]

/-- A frame without a class is refused as the classification refuses it. -/
theorem decodeFrame_of_no_class {bs : List Byte} {e : DecodeError} (h : classifyFrame bs = .error e) :
    decodeFrame bs = .error e := by
  rw [decodeFrame, h]

/-- A legal frame fits FRAME_BUF (R29). -/
theorem length_le_of_legalFrame {tx : List Byte} (h : legalFrame tx) : tx.length ≤ 4 := by
  rcases h with h | ⟨h, _⟩ | ⟨h, _⟩ <;> omega

end Sys2Proof.Machine
end

