-- ==== Sys2Proof/Laws/PerInstr.lean ====
section
/-! SUPPORT. Statements about every command as syntax, one lemma for each constructor. FrameForms: a well-formed
command is encoded in frames of the three formats and the five opcode classes only (R80, R87 to R89, R111). -/

namespace Sys2Proof.Laws.FrameForms

open Sys2Proof.Machine

/-- Every frame of a well-formed command is a legal frame, whatever the OPEN parameters are. -/
def Statement (i : Instr) : Prop :=
  i.wellFormed = true → ∀ (p : OpenParams) (tx : List Byte), tx ∈ encodeFrames p i → legalFrame tx

theorem beginLines : Statement .beginLines := fun _ _ _ h => absurd h List.not_mem_nil

theorem sendCommand (cmd : Nat) : Statement (.sendCommand cmd) := fun _ _ _ h => List.mem_singleton.mp h ▸ legalFrame_command _

theorem resetSensor : Statement .resetSensor := fun _ _ _ h => List.mem_singleton.mp h ▸ legalFrame_command _

theorem readRegister (reg : Nat) : Statement (.readRegister reg) := fun hw _ _ h => List.mem_singleton.mp h ▸ legalFrame_regRead (of_decide_eq_true hw)

theorem writeRegister (reg value : Nat) : Statement (.writeRegister reg value) := fun hw _ _ h =>
  List.mem_singleton.mp h ▸ legalFrame_regWrite value (of_decide_eq_true (Bool.and_eq_true_iff.mp hw).1)

theorem readMemory (addr n : Nat) : Statement (.readMemory addr n) := fun _ _ _ h => legalFrame_span h

theorem writeMemory (addr : Nat) (data : List Nat) : Statement (.writeMemory addr data) := fun _ _ _ h => legalFrame_span h

theorem readOtp (addr n : Nat) : Statement (.readOtp addr n) := fun _ _ _ h => legalFrame_span h

theorem readLabel (addr len : Nat) : Statement (.readLabel addr len) := fun _ _ _ h => legalFrame_span h

theorem readProductNumber : Statement .readProductNumber := fun _ _ _ h => legalFrame_openRead h

theorem readSerialNumber : Statement .readSerialNumber := fun _ _ _ h => legalFrame_openRead h

theorem readFullscaleLabel1 : Statement .readFullscaleLabel1 := fun _ _ _ h => legalFrame_openRead h

theorem readFullscaleLabel2 : Statement .readFullscaleLabel2 := fun _ _ _ h => legalFrame_openRead h

theorem readDeviceType : Statement .readDeviceType := fun _ _ _ h => legalFrame_openRead h

theorem readSpeedClass : Statement .readSpeedClass := fun _ _ _ h => legalFrame_openRead h

theorem readSramCrc : Statement .readSramCrc := fun _ _ _ h => legalFrame_openRead h

theorem readOtpCrc : Statement .readOtpCrc := fun _ _ _ h => legalFrame_openRead h

theorem isDataAvailable : Statement .isDataAvailable := fun _ _ _ h => absurd h List.not_mem_nil

theorem setFullscale (f : F32) : Statement (.setFullscale f) := fun _ _ _ h => absurd h List.not_mem_nil

theorem signExtend24 (raw : Nat) : Statement (.signExtend24 raw) := fun _ _ _ h => absurd h List.not_mem_nil

theorem convertPressure (raw : Nat) (f : F32) : Statement (.convertPressure raw f) := fun _ _ _ h => absurd h List.not_mem_nil

theorem convertPressureStored (raw : Nat) : Statement (.convertPressureStored raw) := fun _ _ _ h => absurd h List.not_mem_nil

theorem convertTemperature (raw : Nat) : Statement (.convertTemperature raw) := fun _ _ _ h => absurd h List.not_mem_nil

end Sys2Proof.Laws.FrameForms
end

