-- ==== Sys2Proof/Laws/Text.lean ====
section
/-! SUPPORT. The host's command syntax (spec/30_encoding.md R92): what is printed is read back, operand by operand. -/

namespace Sys2Proof

/-! ### Digits -/

theorem decDigit_digitChar {d : Nat} (h : d < 10) : decDigit (digitChar d) = some d := by
  interval_cases d <;> rfl

theorem hexDigit_digitChar {d : Nat} (h : d < 16) : hexDigit (digitChar d) = some d := by
  interval_cases d <;> rfl

theorem digitsOnto_append (digit : Char → Option Nat) (base : Nat) :
    ∀ (cs ds : List Char) (n m : Nat), digitsOnto digit base n cs = some m →
      digitsOnto digit base n (cs ++ ds) = digitsOnto digit base m ds
  | [], _, n, m, h => by cases h; rfl
  | c :: cs, ds, n, m, h => by
    simp only [digitsOnto, List.cons_append] at h ⊢
    cases hc : digit c with
    | none => simp [hc] at h
    | some d => rw [hc] at h; exact digitsOnto_append digit base cs ds _ m h

/-- A character that may stand in a printed operand: no blank, no comma, no bracket. -/
def plainChar (c : Char) : Bool := !isBlank c && c != ',' && c != '[' && c != ']'

theorem plainChar_digitChar {d : Nat} (h : d < 16) : plainChar (digitChar d) = true := by
  interval_cases d <;> rfl

/-- The digits of n, written in front of more text. -/
theorem decimalOnto_append : ∀ (fuel n : Nat) (ds after : List Char),
    decimalOnto fuel n (ds ++ after) = decimalOnto fuel n ds ++ after
  | 0, _, _, _ => rfl
  | fuel + 1, n, ds, after => by
    rw [decimalOnto, decimalOnto]
    split
    · rfl
    · exact decimalOnto_append fuel (n / 10) (digitChar (n % 10) :: ds) after

theorem decimalOnto_plain : ∀ (fuel n : Nat) (ds : List Char), (∀ c ∈ ds, plainChar c = true) →
    ∀ c ∈ decimalOnto fuel n ds, plainChar c = true
  | 0, _, _, h => h
  | fuel + 1, n, ds, h => by
    rw [decimalOnto]
    split
    · rename_i hn
      intro c hc
      rcases List.mem_cons.mp hc with rfl | hc
      · exact plainChar_digitChar (by omega)
      · exact h c hc
    · refine decimalOnto_plain fuel (n / 10) _ fun c hc => ?_
      rcases List.mem_cons.mp hc with rfl | hc
      · exact plainChar_digitChar (by omega)
      · exact h c hc

theorem digitsOnto_decimalOnto : ∀ (fuel n : Nat), n < fuel →
    digitsOnto decDigit 10 0 (decimalOnto fuel n []) = some n
  | 0, _, h => by omega
  | fuel + 1, n, h => by
    rw [decimalOnto]
    split
    · rename_i hn
      simp [digitsOnto, decDigit_digitChar hn]
    · rename_i hn
      have ih := digitsOnto_decimalOnto fuel (n / 10) (by omega)
      rw [show [digitChar (n % 10)] = [] ++ [digitChar (n % 10)] from rfl, decimalOnto_append,
        digitsOnto_append _ _ _ _ _ _ ih]
      simp only [digitsOnto, decDigit_digitChar (Nat.mod_lt n (by decide : 0 < 10))]
      congr 1; omega

theorem decimalOnto_ne_nil : ∀ (fuel n : Nat) (ds : List Char), 0 < fuel → decimalOnto fuel n ds ≠ []
  | 0, _, _, h => by omega
  | 1, n, ds, _ => by rw [decimalOnto]; split <;> simp [decimalOnto]
  | fuel + 2, n, ds, _ => by
    rw [decimalOnto]
    split
    · simp
    · exact decimalOnto_ne_nil (fuel + 1) _ _ (by omega)

theorem printNat_plain (n : Nat) : ∀ c ∈ printNat n, plainChar c = true :=
  decimalOnto_plain _ _ _ (by simp)

theorem printNat_ne_nil (n : Nat) : printNat n ≠ [] := decimalOnto_ne_nil _ _ _ (by omega)

theorem printHex_plain : ∀ (k n : Nat), ∀ c ∈ printHex k n, plainChar c = true
  | 0, _, c, h => by simp [printHex] at h
  | k + 1, n, c, h => by
    rcases List.mem_cons.mp h with rfl | h
    · exact plainChar_digitChar (Nat.mod_lt _ (by decide))
    · exact printHex_plain k n c h

/-! ### Blanks -/

theorem isBlank_of_plain {c : Char} (h : plainChar c = true) : isBlank c = false := by
  simp only [plainChar, Bool.and_eq_true, Bool.not_eq_true'] at h
  exact h.1.1.1

theorem dropWhile_blank_of {cs : List Char} (h : ∀ c, cs.head? = some c → isBlank c = false) :
    cs.dropWhile isBlank = cs := by
  cases cs with
  | nil => rfl
  | cons c cs => simp [h c rfl]

/-- Text that neither begins nor ends with a blank is not trimmed. -/
theorem trimBlanks_of_ends {cs : List Char} (h : ∀ c, cs.head? = some c → isBlank c = false)
    (h' : ∀ c, cs.getLast? = some c → isBlank c = false) : trimBlanks cs = cs := by
  rw [trimBlanks, dropWhile_blank_of h, dropWhile_blank_of, List.reverse_reverse]
  intro c hc
  rw [List.head?_reverse] at hc
  exact h' c hc

theorem trimBlanks_plain {cs : List Char} (h : ∀ c ∈ cs, plainChar c = true) : trimBlanks cs = cs :=
  trimBlanks_of_ends (fun c hc => isBlank_of_plain (h c (List.mem_of_mem_head? hc)))
    fun c hc => isBlank_of_plain (h c (List.mem_of_getLast? hc))

theorem trimBlanks_cons_blank (cs : List Char) : trimBlanks (' ' :: cs) = trimBlanks cs := rfl

/-! ### Numbers -/

theorem readDigits_eq {digit : Char → Option Nat} {base : Nat} {cs : List Char} (h : cs ≠ []) :
    readDigits digit base cs = digitsOnto digit base 0 cs := by
  cases cs with
  | nil => exact absurd rfl h
  | cons c cs => rfl

theorem decimalOnto_no_x : ∀ (fuel n : Nat) (ds : List Char), 'x' ∉ ds → 'x' ∉ decimalOnto fuel n ds
  | 0, _, _, h => h
  | fuel + 1, n, ds, h => by
    have hx : ∀ d, d < 10 → 'x' ≠ digitChar d := by decide
    rw [decimalOnto]
    split
    · rename_i hn
      simp [h, hx n hn]
    · exact decimalOnto_no_x fuel _ _ (by simp [h, hx _ (Nat.mod_lt n (by decide : 0 < 10))])

/-- A printed natural reads back (R92). -/
theorem readNat_printNat (n : Nat) : readNat (printNat n) = some n := by
  rw [readNat, trimBlanks_plain (printNat_plain n)]
  have hx : 'x' ∉ printNat n := decimalOnto_no_x _ _ _ (by simp)
  have hd : readDigits decDigit 10 (printNat n) = some n := by
    rw [readDigits_eq (printNat_ne_nil n)]
    exact digitsOnto_decimalOnto (n + 1) n (by omega)
  split
  · rename_i hs h
    rw [h] at hx
    simp at hx
  · exact hd

/-- A printed natural reads back after a blank too. -/
theorem readNat_blank_printNat (n : Nat) : readNat (' ' :: printNat n) = some n := by
  rw [← readNat_printNat n, readNat, readNat, trimBlanks_cons_blank]

/-! ### Bit patterns -/

theorem digitsOnto_printHex : ∀ (k n m : Nat),
    digitsOnto hexDigit 16 m (printHex k n) = some (m * 16 ^ k + n % 16 ^ k)
  | 0, n, m => by simp [printHex, digitsOnto, Nat.mod_one]
  | k + 1, n, m => by
    simp only [printHex, digitsOnto, hexDigit_digitChar (Nat.mod_lt (n / 16 ^ k) (by decide : 0 < 16))]
    rw [digitsOnto_printHex k n, pow_succ, Nat.mod_mul]
    congr 1; ring

theorem length_printHex : ∀ (k n : Nat), (printHex k n).length = k
  | 0, _ => rfl
  | k + 1, n => by simp [printHex, length_printHex k n]

theorem readF32Bits_printHex (f : F32) : readF32Bits (printHex 8 f.toNat ++ [')']) = some f := by
  have hl := length_printHex 8 f.toNat
  have hne : printHex 8 f.toNat ≠ [] := by rw [ne_eq, ← List.length_eq_zero_iff]; omega
  rw [readF32Bits, if_pos ⟨by simp [hl], by simp⟩, List.take_left' hl, readDigits_eq hne, digitsOnto_printHex]
  have := f.isLt
  simp only [Option.map_some, Option.some.injEq]
  apply BitVec.eq_of_toNat_eq
  simp
  omega

theorem readFloat_printFloat (f : F32) : readFloat (printFloat f) = some f := by
  have ht : trimBlanks (printFloat f) = printFloat f := by
    refine trimBlanks_of_ends (fun c hc => ?_) fun c hc => ?_
    · have : c = 'f' := by simpa [printFloat] using hc.symm
      subst this; rfl
    · rw [printFloat, List.getLast?_append, List.getLast?_singleton] at hc
      cases hc; rfl
  rw [readFloat, ht]
  exact readF32Bits_printHex f

theorem readFloat_blank_printFloat (f : F32) : readFloat (' ' :: printFloat f) = some f := by
  rw [← readFloat_printFloat f, readFloat, readFloat, trimBlanks_cons_blank]

/-! ### Lists -/

theorem splitAtChar_plain {cs : List Char} (h : ',' ∉ cs) : splitAtChar ',' cs = [cs] := by
  induction cs with
  | nil => rfl
  | cons c cs ih =>
    simp only [List.mem_cons, not_or] at h
    rw [splitAtChar, if_neg (Ne.symm h.1), ih h.2]

theorem splitAtChar_cons (cs rest : List Char) (h : ',' ∉ cs) :
    splitAtChar ',' (cs ++ (',' :: rest)) = cs :: splitAtChar ',' rest := by
  induction cs with
  | nil => rfl
  | cons c cs ih =>
    simp only [List.mem_cons, not_or] at h
    rw [List.cons_append, splitAtChar, if_neg (Ne.symm h.1), ih h.2]

theorem comma_not_mem_of_plain {cs : List Char} (h : ∀ c ∈ cs, plainChar c = true) : ',' ∉ cs := fun hc => by
  have := h _ hc
  simp [plainChar] at this

theorem splitAtChar_blank (cs : List Char) :
    splitAtChar ',' (' ' :: cs) = match splitAtChar ',' cs with
      | [] => [[' ']]
      | w :: ws => (' ' :: w) :: ws := rfl

theorem splitAtChar_ne_nil (sep : Char) : ∀ cs : List Char, splitAtChar sep cs ≠ []
  | [] => by simp [splitAtChar]
  | c :: cs => by
    rw [splitAtChar]
    split
    · simp
    · split <;> simp

theorem readNat_blank (cs : List Char) : readNat (' ' :: cs) = readNat cs := by
  rw [readNat, readNat, trimBlanks_cons_blank]

theorem readAll_blank (cs : List Char) :
    readAll (splitAtChar ',' (' ' :: cs)) = readAll (splitAtChar ',' cs) := by
  rw [splitAtChar_blank]
  split
  · rename_i h; exact absurd h (splitAtChar_ne_nil _ _)
  · rename_i h; rw [h]; simp [readAll, readNat_blank]

/-- Printed numbers joined with commas read back, all of them. -/
theorem readAll_joined : ∀ (n : Nat) (ns : List Nat),
    readAll (splitAtChar ',' (joinParts ((n :: ns).map printNat))) = some (n :: ns)
  | n, [] => by
    rw [List.map_cons, List.map_nil, joinParts, splitAtChar_plain (comma_not_mem_of_plain (printNat_plain n))]
    simp [readAll, readNat_printNat]
  | n, m :: ns => by
    rw [List.map_cons, List.map_cons, joinParts,
      splitAtChar_cons _ _ (comma_not_mem_of_plain (printNat_plain n)), readAll, readNat_printNat, readAll_blank,
      ← List.map_cons, readAll_joined m ns]
    · simp

/-- Every character of a printed list but its brackets: digits, commas, blanks. -/
theorem joinParts_inside : ∀ (ns : List Nat), ∀ c ∈ joinParts (ns.map printNat), c ≠ '[' ∧ c ≠ ']'
  | [], c, h => by simp [joinParts] at h
  | [n], c, h => by
    have := printNat_plain n c h
    simp only [plainChar, Bool.and_eq_true, bne_iff_ne] at this
    exact ⟨this.1.2, this.2⟩
  | n :: m :: ns, c, h => by
    rw [List.map_cons, List.map_cons, joinParts, List.mem_append, List.mem_cons, List.mem_cons] at h
    · rcases h with h | rfl | rfl | h
      · have := printNat_plain n c h
        simp only [plainChar, Bool.and_eq_true, bne_iff_ne] at this
        exact ⟨this.1.2, this.2⟩
      · decide
      · decide
      · exact joinParts_inside (m :: ns) c h
    · simp

theorem joinParts_ends_plain : ∀ (ns : List Nat),
    (∀ c, (joinParts (ns.map printNat)).head? = some c → isBlank c = false) ∧
      (∀ c, (joinParts (ns.map printNat)).getLast? = some c → isBlank c = false)
  | [] => by simp [joinParts]
  | [n] => ⟨fun c h => isBlank_of_plain (printNat_plain n c (List.mem_of_mem_head? h)),
      fun c h => isBlank_of_plain (printNat_plain n c (List.mem_of_getLast? h))⟩
  | n :: m :: ns => by
    have ih := joinParts_ends_plain (m :: ns)
    obtain ⟨d, ds, hd⟩ := List.exists_cons_of_ne_nil (printNat_ne_nil n)
    rw [List.map_cons, List.map_cons, joinParts]
    · refine ⟨fun c h => ?_, fun c h => ?_⟩
      · rw [hd] at h
        have hc : d = c := by simpa using h
        exact isBlank_of_plain (printNat_plain n c (by rw [hd, hc]; simp))
      · rw [List.getLast?_append] at h
        rw [← List.map_cons] at h
        have hne : joinParts (List.map printNat (m :: ns)) ≠ [] := by
          cases ns with
          | nil => exact printNat_ne_nil m
          | cons k ks => simp [joinParts]
        obtain ⟨e, es, he⟩ := List.exists_cons_of_ne_nil hne
        apply ih.2 c
        rw [he] at h ⊢
        simpa using h
    · simp

theorem readList_printList (ns : List Nat) : readList (printList ns) = some ns := by
  have ht : trimBlanks (printList ns) = printList ns := by
    refine trimBlanks_of_ends (fun c hc => ?_) fun c hc => ?_
    · have : c = '[' := by simpa [printList] using hc.symm
      subst this; rfl
    · rw [printList, ← List.cons_append, List.getLast?_append, List.getLast?_singleton] at hc
      cases hc; rfl
  rw [readList, ht, printList]
  simp only [List.getLast?_append, List.getLast?_singleton, Option.some_or, if_true, List.dropLast_concat]
  obtain ⟨h1, h2⟩ := joinParts_ends_plain ns
  rw [readListInside, trimBlanks_of_ends h1 h2]
  cases ns with
  | nil => rfl
  | cons n ns =>
    rw [if_neg, readAll_joined]
    cases ns with
    | nil => exact printNat_ne_nil n
    | cons k ks => simp [joinParts]

theorem readList_blank_printList (ns : List Nat) : readList (' ' :: printList ns) = some ns := by
  rw [← readList_printList ns, readList, readList, trimBlanks_cons_blank]

/-! ### Operands -/

theorem splitOperands_plain {cs : List Char} (h : ∀ c ∈ cs, c ≠ ',' ∧ c ≠ '[' ∧ c ≠ ']') :
    splitOperands false cs = [cs] := by
  induction cs with
  | nil => rfl
  | cons c cs ih =>
    have hc := h c (by simp)
    rw [splitOperands, if_neg (by simp [hc.1]), if_neg hc.2.1, if_neg hc.2.2,
      ih fun d hd => h d (List.mem_cons_of_mem _ hd)]

theorem splitOperands_cons {cs : List Char} (rest : List Char) (h : ∀ c ∈ cs, c ≠ ',' ∧ c ≠ '[' ∧ c ≠ ']') :
    splitOperands false (cs ++ (',' :: rest)) = cs :: splitOperands false rest := by
  induction cs with
  | nil => rfl
  | cons c cs ih =>
    have hc := h c (by simp)
    rw [List.cons_append, splitOperands, if_neg (by simp [hc.1]), if_neg hc.2.1, if_neg hc.2.2,
      ih fun d hd => h d (List.mem_cons_of_mem _ hd)]

theorem splitOperands_inside {cs : List Char} (h : ∀ c ∈ cs, c ≠ '[' ∧ c ≠ ']') :
    splitOperands true (cs ++ [']']) = [cs ++ [']']] := by
  induction cs with
  | nil => rfl
  | cons c cs ih =>
    have hc := h c (by simp)
    rw [List.cons_append, splitOperands, if_neg (by simp), if_neg hc.1, if_neg hc.2,
      ih fun d hd => h d (List.mem_cons_of_mem _ hd)]

theorem splitOperands_blank_printList (ns : List Nat) :
    splitOperands false (' ' :: printList ns) = [' ' :: printList ns] := by
  have h := splitOperands_inside (joinParts_inside ns)
  simp only [printList, splitOperands]
  simp [h]

theorem not_separator_of_plain {c : Char} (h : plainChar c = true) : c ≠ ',' ∧ c ≠ '[' ∧ c ≠ ']' := by
  simp only [plainChar, Bool.and_eq_true, bne_iff_ne] at h
  exact ⟨h.1.1.2, h.1.2, h.2⟩

theorem printFloat_plain (f : F32) : ∀ c ∈ printFloat f, plainChar c = true := by
  intro c hc
  rw [printFloat, List.mem_append, List.mem_append] at hc
  rcases hc with (hc | hc) | hc
  · simp only [List.mem_cons, List.not_mem_nil, or_false] at hc
    rcases hc with rfl | rfl | rfl | rfl | rfl | rfl <;> rfl
  · exact printHex_plain _ _ c hc
  · cases List.mem_singleton.mp hc; rfl

/-! ### Lines -/

/-- A word of the table: it names a reader and holds no blank. -/
structure NamesReader (name : List Char) (reader : List (List Char) → Except SyntaxError Instr) : Prop where
  found : commandTable.lookup name = some reader
  solid : (name.all fun c => !isBlank c) = true
  nonempty : name ≠ []

theorem NamesReader.not_blank {name : List Char} {reader : List (List Char) → Except SyntaxError Instr}
    (h : NamesReader name reader) : ∀ c ∈ name, isBlank c = false := by
  simpa using h.solid

/-- A line that is a mnemonic alone. -/
theorem readLine_name {name : List Char} {reader : List (List Char) → Except SyntaxError Instr}
    (h : NamesReader name reader) : readLine name = reader [] := by
  have hb := h.not_blank
  have ht : trimBlanks name = name := trimBlanks_of_ends (fun c hc => hb c (List.mem_of_mem_head? hc))
    fun c hc => hb c (List.mem_of_getLast? hc)
  have e1 : name.takeWhile (fun c => !isBlank c) = name := by
    rw [List.takeWhile_eq_self_iff]; simpa using hb
  have e2 : name.dropWhile (fun c => !isBlank c) = [] := by
    rw [List.dropWhile_eq_nil_iff]; simpa using hb
  rw [readLine, ht]
  simp only [e1, e2, h.found]
  rfl

/-- A line that is a mnemonic, a blank and operands that neither begin nor end with a blank. -/
theorem readLine_operands {name ops : List Char} {reader : List (List Char) → Except SyntaxError Instr}
    (h : NamesReader name reader) (hb : ∀ c, ops.head? = some c → isBlank c = false)
    (hl : ∀ c, ops.getLast? = some c → isBlank c = false) (hne : ops ≠ []) :
    readLine (name ++ (' ' :: ops)) = reader (splitOperands false ops) := by
  have hn := h.not_blank
  have ht : trimBlanks (name ++ (' ' :: ops)) = name ++ (' ' :: ops) := by
    refine trimBlanks_of_ends (fun c hc => ?_) fun c hc => ?_
    · obtain ⟨d, ds, hd⟩ := List.exists_cons_of_ne_nil h.nonempty
      rw [hd] at hc
      have hdc : d = c := by simpa using hc
      exact hn c (by rw [hd, hdc]; simp)
    · rw [List.getLast?_append] at hc
      apply hl
      obtain ⟨d, ds, rfl⟩ := List.exists_cons_of_ne_nil hne
      simpa using hc
  have e1 : (name ++ (' ' :: ops)).takeWhile (fun c => !isBlank c) = name := by
    rw [List.takeWhile_append_of_pos (by simpa using hn)]; simp [isBlank]
  have e2 : (name ++ (' ' :: ops)).dropWhile (fun c => !isBlank c) = ' ' :: ops := by
    rw [List.dropWhile_append_of_pos (by simpa using hn)]; simp [isBlank]
  simp only [readLine, ht, e1, e2, h.found, trimBlanks_cons_blank, trimBlanks_of_ends hb hl, operandsOf, if_neg hne]

end Sys2Proof
end

