-- ==== Sys2Proof/Tests/Slice0.lean ====
section
/-! SUPPORT. Tests of the model: ill-formed terms refused, words and lines written out from spec/30_encoding.md, one
step of each command against the vectors of spec/95_test_vectors.md, and for every statement with hypotheses a
witness that meets them. Expected values are the spec's own or its bit patterns written out. -/

open Sys2Proof Sys2Proof.Machine

namespace Sys2Proof.Tests

/-! ### Helpers -/

/-- A state after BEGIN in which the bus layer serves everything and the sensor sends these bytes. -/
def ready (miso : List Byte) : State :=
  { State.reset with
    started := true
    csN := .high
    trace := [.began 10 7]
    env := { Env.fresh with
      miso := ⟨miso, 0⟩
      claims := ⟨[.granted], 0⟩
      calls := ⟨List.replicate 40 .completes, 0⟩ } }

/-- A state after BEGIN in which the bus layer answers as given. -/
def answering (claims : List ClaimReply) (calls : List CallReply) : State :=
  { ready [] with env := { Env.fresh with claims := ⟨claims, 0⟩, calls := ⟨calls, 0⟩ } }

/-- Parameters of the spec's examples (L2.5, P3): example values, not the device's. -/
def exampleParams : OpenParams :=
  ⟨some 0x100, some 0x200, some 0x300, some 0x310, some 0x040, some 0x050, some 0x0FFE, some 0x1FFC⟩

/-- Sensor bytes that answer read frames with these data bytes, every other byte 0xEE. -/
def answersWith (data : List Byte) : List Byte := data.flatMap fun d => [0xEE, 0xEE, d]

/-- The Claim event of the default configuration (95_test_vectors.md, notation). -/
def claim4M : BusEvent := .claim ⟨4000000, by decide⟩ .msbFirst .mode1

/-- What a step appended: trace and outcomes of the next state. -/
def seen : Answer → Option (List BusEvent × List CmdOutcome)
  | .next t => some (t.trace, t.outcomes)
  | .fault _ => none
  | .refused _ => none

/-- The outcomes of the next state. -/
def outcomesOf (a : Answer) : Option (List CmdOutcome) := (seen a).map fun p => p.2

/-- The frames sent, from the trace of the next state. -/
def sent : BusEvent → Option (List Byte)
  | .began _ _ => none
  | .claim _ _ _ => none
  | .frame tx _ => some tx
  | .release => none
  | .drdySample _ => none

/-- The frames sent by a step. -/
def framesSent (a : Answer) : Option (List (List Byte)) := (seen a).map fun p => p.1.filterMap sent

theorem next_of_seen {a : Answer} {trace : List BusEvent} {os : List CmdOutcome} (h : seen a = some (trace, os)) :
    ∃ t, a = .next t ∧ t.trace = trace ∧ t.outcomes = os := by
  cases a with
  | next t => simp [seen] at h; exact ⟨t, rfl, h.1, h.2⟩
  | fault _ => simp [seen] at h
  | refused _ => simp [seen] at h

/-! ### Ill-formed terms (R94) -/

theorem test_wellFormed_refuses_cmd : (Instr.sendCommand 256).wellFormed = false := by decide
theorem test_wellFormed_refuses_read_index : (Instr.readRegister 64).wellFormed = false := by decide
theorem test_wellFormed_refuses_write_index : (Instr.writeRegister 64 0).wellFormed = false := by decide
theorem test_wellFormed_refuses_value : (Instr.writeRegister 5 0x1000000).wellFormed = false := by decide
theorem test_wellFormed_refuses_data : (Instr.writeMemory 0 [0, 0x100]).wellFormed = false := by decide
theorem test_wellFormed_refuses_raw : (Instr.signExtend24 0x100000000).wellFormed = false ∧
    (Instr.convertPressure 0x100000000 0).wellFormed = false ∧
    (Instr.convertPressureStored 0x100000000).wellFormed = false ∧
    (Instr.convertTemperature 0x100000000).wellFormed = false := by decide
theorem test_wellFormed_at_the_bounds : (Instr.sendCommand 255).wellFormed = true ∧
    (Instr.writeRegister 63 0xFFFFFF).wellFormed = true ∧ (Instr.writeMemory 0 [255]).wellFormed = true ∧
    (Instr.convertTemperature 0xFFFFFFFF).wellFormed = true := by decide

/-! ### Words of the wire, bit by bit from R81 to R83 -/

/-- F1 `cccccccc` (R81). -/
theorem test_word_sendCommand : decodeTableWord 8 0b01011010 = some (.sendCommand 0x5A) := by decide
/-- A one-byte frame is a command whatever its bits (R90). -/
theorem test_word_sendCommand_0x40 : decodeTableWord 8 0b01000000 = some (.sendCommand 0x40) := by decide
/-- `10001000` (R142). -/
theorem test_word_resetSensor : decodeTableWord 8 0b10001000 = some .resetSensor := by decide
/-- `01rrrrrr 00000000 00000000 00000000` with r = 5 (R82). -/
theorem test_word_readRegister :
    decodeTableWord 32 0b01000101000000000000000000000000 = some (.readRegister 5) := by decide
/-- `11rrrrrr vvvvvvvv vvvvvvvv vvvvvvvv` with r = 63, v = 0xABCDEF (R82). -/
theorem test_word_writeRegister :
    decodeTableWord 32 0b11111111101010111100110111101111 = some (.writeRegister 0x3F 0xABCDEF) := by decide
/-- `0001aaaa aaaaaaaa 00000000` with a = 0xABC (R83). -/
theorem test_word_readMemory : decodeTableWord 24 0b000110101011110000000000 = some (.readMemory 0xABC 1) := by decide
/-- `1001aaaa aaaaaaaa dddddddd` with a = 0xABC, d = 0x5A (R83). -/
theorem test_word_writeMemory :
    decodeTableWord 24 0b100110101011110001011010 = some (.writeMemory 0xABC [0x5A]) := by decide
/-- `001aaaaa aaaaaaaa 00000000` with a = 0x1FFF (R83). -/
theorem test_word_readOtp : decodeTableWord 24 0b001111111111111100000000 = some (.readOtp 0x1FFF 1) := by decide
/-- The unused opcode ranges of R88, and a placeholder that is not zero. -/
theorem test_word_refused : decodeTableWord 24 0x0F0000 = none ∧ decodeTableWord 24 0x8F0000 = none ∧
    decodeTableWord 24 0xA00000 = none ∧ decodeTableWord 24 0x400000 = none ∧ decodeTableWord 32 0x10000000 = none ∧
    decodeTableWord 32 0x90000000 = none ∧ decodeTableWord 16 0x1000 = none ∧ decodeTableWord 24 0x100001 = none := by
  decide
/-- The class of a frame where R90's ranges end, whether or not a command sends it. -/
theorem test_frame_classes : classifyFrame [0x40] = .ok (.command 0x40) ∧
    classifyFrame [0x0F, 0, 0] = .error (.unusedOpcode 0x0F) ∧ classifyFrame [0x10, 0, 7] = .ok (.memory 0x10 0 7) ∧
    classifyFrame [0x3F, 0, 0] = .ok (.memory 0x3F 0 0) ∧ classifyFrame [0x40, 0, 0] = .error (.unusedOpcode 0x40) ∧
    classifyFrame [0x8F, 0, 0] = .error (.unusedOpcode 0x8F) ∧ classifyFrame [0x9F, 0, 0] = .ok (.memory 0x9F 0 0) ∧
    classifyFrame [0xA0, 0, 0] = .error (.unusedOpcode 0xA0) ∧
    classifyFrame [0x3F, 0, 0, 0] = .error (.unusedOpcode 0x3F) ∧
    classifyFrame [0x40, 1, 0, 0] = .ok (.register 0x40 1 0 0) ∧
    classifyFrame [0x80, 0, 0, 0] = .ok (.register 0x80 0 0 0) ∧
    classifyFrame [0xFF, 0, 0, 0] = .ok (.register 0xFF 0 0 0) ∧ classifyFrame [0, 0] = .error (.badLength 2) := by decide
/-- Frames of a class that no command sends. -/
theorem test_frames_of_no_command : decodeFrame [0x80, 0, 0, 0] = .error (.noCommand 0x80) ∧
    decodeFrame [0xBF, 0, 0, 0] = .error (.noCommand 0xBF) ∧ decodeFrame [0x40, 0, 0, 1] = .error .badPlaceholder ∧
    decodeFrame [0x3F, 0, 1] = .error .badPlaceholder := by decide
/-- A span that wraps, as the frames of L2.3. -/
theorem test_span_writeMemory : decodeSpan [[0x9F, 0xFE, 0x11], [0x9F, 0xFF, 0x22], [0x90, 0x00, 0x33]] =
    .ok (.writeMemory 0xFFE [0x11, 0x22, 0x33]) := by decide
/-- An OTP span of L2.3, and a list of frames that is no span. -/
theorem test_span_readOtp : decodeSpan [[0x2F, 0xFF, 0x00], [0x30, 0x00, 0x00]] = .ok (.readOtp 0xFFF 2) ∧
    decodeSpan [[0x2F, 0xFF, 0x00], [0x20, 0x00, 0x00]] = .error .notASpan ∧
    decodeSpan [] = .error .emptySpan := by decide

/-! ### Lines of the host's syntax (R92), one for each command -/

theorem test_line_begin : readLine "BEGIN".toList = .ok .beginLines := by decide
theorem test_line_sendCommand : readLine "SEND_COMMAND 0x5A".toList = .ok (.sendCommand 0x5A) := by decide
theorem test_line_resetSensor : readLine "RESET_SENSOR".toList = .ok .resetSensor := by decide
theorem test_line_readRegister : readLine "READ_REGISTER 0x05".toList = .ok (.readRegister 5) := by decide
theorem test_line_writeRegister :
    readLine "WRITE_REGISTER 0x3F, 0xABCDEF".toList = .ok (.writeRegister 63 0xABCDEF) := by decide
theorem test_line_readMemory : readLine "READ_MEMORY 0xABC, 1".toList = .ok (.readMemory 0xABC 1) := by decide
theorem test_line_writeMemory :
    readLine "WRITE_MEMORY 0x0FFE, [0x11, 0x22, 51]".toList = .ok (.writeMemory 0xFFE [0x11, 0x22, 0x33]) := by decide
theorem test_line_readOtp : readLine "READ_OTP 0x1FFF, 1".toList = .ok (.readOtp 0x1FFF 1) := by decide
theorem test_line_readLabel : readLine "READ_LABEL 0x100, 40".toList = .ok (.readLabel 0x100 40) := by decide
theorem test_line_readProductNumber : readLine "READ_PRODUCT_NUMBER".toList = .ok .readProductNumber := by decide
theorem test_line_readSerialNumber : readLine "READ_SERIAL_NUMBER".toList = .ok .readSerialNumber := by decide
theorem test_line_readFullscaleLabel1 : readLine "READ_FULLSCALE_LABEL_1".toList = .ok .readFullscaleLabel1 := by decide
theorem test_line_readFullscaleLabel2 : readLine "READ_FULLSCALE_LABEL_2".toList = .ok .readFullscaleLabel2 := by decide
theorem test_line_readDeviceType : readLine "READ_DEVICE_TYPE".toList = .ok .readDeviceType := by decide
theorem test_line_readSpeedClass : readLine "READ_SPEED_CLASS".toList = .ok .readSpeedClass := by decide
theorem test_line_readSramCrc : readLine "READ_SRAM_CRC".toList = .ok .readSramCrc := by decide
theorem test_line_readOtpCrc : readLine "READ_OTP_CRC".toList = .ok .readOtpCrc := by decide
theorem test_line_isDataAvailable : readLine "IS_DATA_AVAILABLE".toList = .ok .isDataAvailable := by decide
theorem test_line_setFullscale : readLine "SET_FULLSCALE 100.0".toList = .ok (.setFullscale 0x42C80000) := by
  decide +kernel
theorem test_line_setFullscale_bits :
    readLine "SET_FULLSCALE f32(0x7FC00001)".toList = .ok (.setFullscale 0x7FC00001) := by decide
theorem test_line_signExtend24 : readLine "SIGN_EXTEND_24 0xE00000".toList = .ok (.signExtend24 0xE00000) := by decide
theorem test_line_convertPressure :
    readLine "CONVERT_PRESSURE 0xE00000, 1.0".toList = .ok (.convertPressure 0xE00000 0x3F800000) := by decide +kernel
theorem test_line_convertPressureStored :
    readLine "CONVERT_PRESSURE_STORED 0x100000".toList = .ok (.convertPressureStored 0x100000) := by decide
theorem test_line_convertTemperature :
    readLine "CONVERT_TEMPERATURE 0x200000".toList = .ok (.convertTemperature 0x200000) := by decide
/-- Digits on one side of the point only (log 17). -/
theorem test_one_sided_decimals : readFloat ".5".toList = some 0x3F000000 ∧ readFloat "5.".toList = some 0x40A00000 ∧
    readFloat ".".toList = none := by decide +kernel
/-- Decimal literals with the bit patterns L2.7 gives for them. -/
theorem test_decimals : readFloat "0.1".toList = some 0x3DCCCCCD ∧ readFloat "3.4e38".toList = some 0x7F7FC99E ∧
    readFloat "1e-45".toList = some 0x00000001 ∧ readFloat "-0.0".toList = some 0x80000000 ∧
    readFloat "1e38".toList = some 0x7E967699 := by decide +kernel
theorem test_line_refused : readLine "READ_REGISTERS 5".toList = .error .unknownMnemonic ∧
    readLine "READ_REGISTER".toList = .error .operandCount ∧
    readLine "READ_REGISTER 5x".toList = .error .badNumber := by decide

/-! ### One step of each command (L2, L3) -/

/-- R260's example. -/
theorem test_begin : seen (exec .beginLines State.reset) = some ([.began 10 7], [.ok .unit]) := by decide
/-- L2.1. -/
theorem test_sendCommand : seen (exec (.sendCommand 0x40) (ready [0x99])) =
    some ([.began 10 7, claim4M, .frame [0x40] [0x99], .release], [.ok .unit]) := by decide
/-- P4. -/
theorem test_resetSensor : seen (exec .resetSensor (ready [0xFF])) =
    some ([.began 10 7, claim4M, .frame [0x88] [0xFF], .release], [.ok .unit]) := by decide
/-- L2.2, with rx[0] discarded. -/
theorem test_readRegister : seen (exec (.readRegister 5) (ready [0xFF, 0x12, 0x34, 0x56])) =
    some ([.began 10 7, claim4M, .frame [0x45, 0, 0, 0] [0xFF, 0x12, 0x34, 0x56], .release],
      [.ok (.uint32 0x00123456)]) := by decide
/-- L2.2: unsigned. -/
theorem test_readRegister_unsigned : outcomesOf (exec (.readRegister 0x20) (ready [0xAA, 0x80, 0, 0])) =
    some [.ok (.uint32 0x00800000)] := by decide
/-- L2.2. -/
theorem test_writeRegister : framesSent (exec (.writeRegister 0x12 0x010203) (ready [1, 2, 3, 4])) =
    some [[0xD2, 0x01, 0x02, 0x03]] := by decide
/-- L1 item 1. -/
theorem test_writeRegister_echo : framesSent (exec (.writeRegister 0x2A 0x89ABCD) (ready [])) =
    some [[0xEA, 0x89, 0xAB, 0xCD]] := by decide
/-- L2.3: the span wraps, and rx[2] is the result. -/
theorem test_readMemory : seen (exec (.readMemory 0x0FFE 3) (ready [1, 2, 0x11, 3, 4, 0x22, 5, 6, 0x33])) =
    some ([.began 10 7, claim4M, .frame [0x1F, 0xFE, 0] [1, 2, 0x11],
      .frame [0x1F, 0xFF, 0] [3, 4, 0x22], .frame [0x10, 0x00, 0] [5, 6, 0x33], .release],
      [.ok (.bytes [0x11, 0x22, 0x33])]) := by decide +kernel
/-- L2.3: an empty span. -/
theorem test_readMemory_empty : seen (exec (.readMemory 0x100 0) (ready [])) =
    some ([.began 10 7, claim4M, .release], [.ok (.bytes [])]) := by decide
/-- L2.3. -/
theorem test_writeMemory : framesSent (exec (.writeMemory 0x0FFE [0x11, 0x22, 0x33]) (ready [])) =
    some [[0x9F, 0xFE, 0x11], [0x9F, 0xFF, 0x22], [0x90, 0x00, 0x33]] := by decide
/-- P2. -/
theorem test_readOtp : framesSent (exec (.readOtp 0x1FFF 2) (ready [])) = some [[0x3F, 0xFF, 0], [0x20, 0x00, 0]] ∧
    outcomesOf (exec (.readOtp 0x1FFF 2) (ready (answersWith [0xA5, 0x5A]))) = some [.ok (.bytes [0xA5, 0x5A])] := by
  decide +kernel
/-- L2.4: the first zero ends the label. -/
theorem test_readLabel :
    outcomesOf (exec (.readLabel 0x100 8) (ready (answersWith [0x41, 0x42, 0, 0x43, 0x44, 0x45, 0x46, 0x47]))) =
      some [.ok (.label [0x41, 0x42])] := by decide +kernel
/-- L2.4: no terminator gives the empty string, and a length of 40 is clamped to 32. -/
theorem test_readLabel_clamped :
    outcomesOf (exec (.readLabel 0x100 40) (ready (answersWith (List.replicate 40 0x41)))) =
      some [.ok (.label [])] ∧
    (framesSent (exec (.readLabel 0x100 40) (ready []))).map List.length = some 32 := by decide +kernel
/-- R202: 32 frames at the parameter's address, the last one's address P + 31. -/
theorem test_readProductNumber :
    (framesSent (exec .readProductNumber { ready [] with params := exampleParams })).map
      (fun fs => (fs.length, fs.head?, fs.getLast?)) = some (32, some [0x11, 0x00, 0], some [0x11, 0x1F, 0]) := by
  decide +kernel
/-- R203. -/
theorem test_readSerialNumber :
    (framesSent (exec .readSerialNumber { ready [] with params := exampleParams })).map
      (fun fs => (fs.length, fs.head?)) = some (32, some [0x12, 0x00, 0]) := by decide +kernel
/-- R204. -/
theorem test_readFullscaleLabel1 :
    (framesSent (exec .readFullscaleLabel1 { ready [] with params := exampleParams })).map
      (fun fs => (fs.length, fs.head?)) = some (16, some [0x13, 0x00, 0]) := by decide +kernel
/-- R205. -/
theorem test_readFullscaleLabel2 :
    (framesSent (exec .readFullscaleLabel2 { ready [] with params := exampleParams })).map
      (fun fs => (fs.length, fs.head?)) = some (16, some [0x13, 0x10, 0]) := by decide +kernel
/-- P3: "SPOT", a terminator, then garbage. -/
theorem test_readDeviceType :
    outcomesOf (exec .readDeviceType
      { ready (answersWith ([0x53, 0x50, 0x4F, 0x54, 0] ++ List.replicate 11 0xFF)) with params := exampleParams }) =
      some [.ok (.label [0x53, 0x50, 0x4F, 0x54])] := by decide +kernel
/-- R207. -/
theorem test_readSpeedClass :
    (framesSent (exec .readSpeedClass { ready [] with params := exampleParams })).map
      (fun fs => (fs.length, fs.head?)) = some (16, some [0x10, 0x50, 0]) := by decide +kernel
/-- L2.5: the frames and the little-endian word. -/
theorem test_readSramCrc :
    framesSent (exec .readSramCrc { ready [] with params := exampleParams }) =
      some [[0x1F, 0xFE, 0], [0x1F, 0xFF, 0], [0x10, 0x00, 0], [0x10, 0x01, 0]] ∧
    outcomesOf (exec .readSramCrc
      { ready (answersWith [0x78, 0x56, 0x34, 0x12]) with params := exampleParams }) =
      some [.ok (.uint32 0x12345678)] := by decide +kernel
/-- L2.5. -/
theorem test_readOtpCrc :
    framesSent (exec .readOtpCrc { ready [] with params := exampleParams }) =
      some [[0x3F, 0xFC, 0], [0x3F, 0xFD, 0], [0x3F, 0xFE, 0], [0x3F, 0xFF, 0]] ∧
    outcomesOf (exec .readOtpCrc
      { ready (answersWith [0xEF, 0xBE, 0xAD, 0xDE]) with params := exampleParams }) =
      some [.ok (.uint32 0xDEADBEEF)] := by decide +kernel
/-- L2.8: the line is active low. -/
theorem test_isDataAvailable :
    seen (exec .isDataAvailable { ready [] with env := { Env.fresh with drdy := ⟨[.low, .high], 0⟩ } }) =
      some ([.began 10 7, .drdySample .low], [.ok (.bool true)]) ∧
    seen (exec .isDataAvailable { ready [] with env := { Env.fresh with drdy := ⟨[.high], 0⟩ } }) =
      some ([.began 10 7, .drdySample .high], [.ok (.bool false)]) := by decide
/-- L2.7: a NaN's payload is kept. -/
theorem test_setFullscale : ∃ t, exec (.setFullscale 0x7FC00001) State.reset = .next t ∧ t.fullscale = 0x7FC00001 :=
  ⟨_, rfl, rfl⟩
/-- L2.6. -/
theorem test_signExtend24 : signedReading 0xE00000 = -2097152 ∧ signedReading 0x800000 = -8388608 ∧
    signedReading 0x7FFFFF = 8388607 ∧ signedReading 0xFF000001 = 1 ∧ signedReading 0x01000000 = 0 ∧
    outcomesOf (exec (.signExtend24 0xFFFFFFFF) State.reset) = some [.ok (.int32 0xFFFFFFFF)] := by decide
/-- A converter's result for a raw reading and a factor. -/
def pressure (raw : Nat) (f : F32) : Option (List CmdOutcome) := outcomesOf (exec (.convertPressure raw f) State.reset)
/-- L2.7: signs, rounding, overflow, the order of evaluation, subnormals and their ties. -/
theorem test_convertPressure : pressure 0 0xBF800000 = some [.ok (.binary32 0x80000000)] ∧
    pressure 0x123456 0x42C80000 = some [.ok (.binary32 0x42638E33)] ∧
    pressure 0x7FFFFF 0x3DCCCCCD = some [.ok (.binary32 0x3ECCCCCB)] ∧
    pressure 5 0xC0000000 = some [.ok (.binary32 0xB6A00000)] ∧
    pressure 0x800000 0x7F7FC99E = some [.ok (.binary32 0xFF800000)] ∧
    pressure 0x400000 0x7E967699 = some [.ok (.binary32 0x7F167699)] := by decide +kernel
theorem test_convertPressure_small : pressure 0xFFFFFF 0x7F800000 = some [.ok (.binary32 0xFF800000)] ∧
    pressure 3 0x00000001 = some [.ok (.binary32 0x00000000)] ∧
    pressure 3 0x00200000 = some [.ok (.binary32 0x00000003)] ∧
    pressure 1 0x00100000 = some [.ok (.binary32 0x00000000)] ∧
    pressure 3 0x00100000 = some [.ok (.binary32 0x00000002)] ∧
    pressure 0x7FFFFF 0x00800000 = some [.ok (.binary32 0x017FFFFE)] := by decide +kernel
/-- L1 item 8, and L2.7 from the default state. -/
theorem test_convertPressureStored :
    outcomesOf (exec (.convertPressureStored 0x100000) { State.reset with fullscale := 0x42C80000 }) =
      some [.ok (.binary32 0x42480000)] ∧
    outcomesOf (exec (.convertPressureStored 0x800000) State.reset) = some [.ok (.binary32 0x80000000)] := by
  decide +kernel
/-- L2.7: no BEGIN is needed. -/
theorem test_convertTemperature :
    outcomesOf (exec (.convertTemperature 0x200000) State.reset) = some [.ok (.binary32 0x41C80000)] ∧
    outcomesOf (exec (.convertTemperature 0x7FFFFF) State.reset) = some [.ok (.binary32 0x42C7FFFE)] ∧
    outcomesOf (exec (.convertTemperature 0x800000) State.reset) = some [.ok (.binary32 0xC2C80000)] ∧
    outcomesOf (exec (.convertTemperature 0xFFFFFF) State.reset) = some [.ok (.binary32 0xB7480000)] := by
  decide +kernel

/-! ### Outcomes (L2.9) -/

theorem test_refused_before_begin :
    seen (exec (.readRegister 5) State.reset) = some ([], [.refused .notStarted (.readRegister 5)]) ∧
    seen (exec (.readRegister 64) State.reset) = some ([], [.refused .operandRange (.readRegister 64)]) ∧
    seen (exec .readSramCrc State.reset) = some ([], [.refused .notStarted .readSramCrc]) ∧
    seen (exec .isDataAvailable State.reset) = some ([], [.refused .notStarted .isDataAvailable]) := by decide
theorem test_refused_open :
    outcomesOf (exec .readSramCrc (ready [])) = some [.refused .parameterOpen .readSramCrc] ∧
    outcomesOf (exec .readProductNumber (ready [])) = some [.refused .parameterOpen .readProductNumber] := by decide
theorem test_claim_fails :
    seen (exec (.readRegister 5) (answering [.fails] [])) = some ([.began 10 7], [.busFailure]) := by decide
theorem test_frame_fails :
    seen (exec (.readRegister 5) (answering [.granted] [.fails])) =
      some ([.began 10 7, claim4M], [.busFailure]) := by decide
/-- P6: the second frame of a span fails. -/
theorem test_second_frame_fails :
    framesSent (exec (.writeMemory 0 [1, 2, 3]) (answering [.granted] [.completes, .fails])) = some [[0x90, 0, 1]] := by
  decide
theorem test_release_fails :
    outcomesOf (exec (.readRegister 5) (answering [.granted] [.completes, .fails])) = some [.busFailure] := by decide
theorem test_claim_waits :
    seen (exec (.readRegister 5) (answering [.notYet, .granted] [])) = some ([.began 10 7], []) := by decide

/-! ### Witnesses: states and operands that meet the hypotheses of the statements -/

/-- The bus layer serves n frames in the state: the hypothesis of the result statements, for a bus command of any
length up to 39. -/
theorem witness_busServes (miso : List Byte) : ∀ n : Fin 40, (ready miso).busServes n := by
  intro n
  refine ⟨rfl, fun k hk => ?_⟩
  have h : k < 40 := by omega
  change (List.replicate 40 CallReply.completes).getD k _ = _
  rw [List.getD_eq_getElem?_getD, List.getElem?_replicate, if_pos h]
  rfl

/-- A program that places a command at the position, with both marks false. -/
theorem witness_StepRunsTheCommandAtThePosition :
    (State.reset.withFetchWord 32 0x45000000).fault = false ∧
    (State.reset.withFetchWord 32 0x45000000).refused = false ∧
    (State.reset.withFetchWord 32 0x45000000).program[(State.reset.withFetchWord 32 0x45000000).index]? =
      some (.readRegister 5) ∧
    decodeTableWord 32 0x45000000 = some (.readRegister 5) := by decide

theorem witness_EndedRunsDoNotContinue :
    ({ State.reset with fault := true } : State).fault = true ∧
    ({ State.reset with refused := true } : State).fault = false ∧
    ({ State.reset with refused := true } : State).refused = true ∧
    State.reset.fault = false ∧ State.reset.refused = false ∧ State.reset.program.length ≤ State.reset.index := by
  decide

theorem witness_RefusalChecksInOrder :
    (Instr.sendCommand 256).wellFormed = false ∧
    ((Instr.sendCommand 255).wellFormed = true ∧ (Instr.sendCommand 255).needsBegin = true ∧
      State.reset.started = false) ∧
    (Instr.readSramCrc.wellFormed = true ∧ (ready []).started = true ∧
      Instr.readSramCrc.openParameter (ready []).params = some none) := by decide

/-- The checks of R95 passed: by a bus command, by one at an OPEN address, by one without frames at reset. -/
theorem witness_admitted :
    (Instr.readRegister 63).admitted (ready []) ∧
    Instr.readOtpCrc.admitted { ready [] with params := exampleParams } ∧
    (Instr.convertTemperature 0xFFFFFFFF).admitted State.reset ∧ (Instr.readRegister 63).isBusCommand = true ∧
    Instr.readOtpCrc.isBusCommand = true ∧ (Instr.convertTemperature 0xFFFFFFFF).isBusCommand = false := by
  unfold Instr.admitted; decide

/-- The bus layer's answers in the statements on failures: the claim fails, the first call fails, the last one fails,
the claim is not granted. -/
theorem witness_BusFailuresEndTheCommand :
    (answering [.fails] []).claimNow = .fails ∧ (answering [.notYet] []).claimNow = .notYet ∧
    ((answering [.granted] [.fails]).claimNow = .granted ∧ (answering [.granted] [.fails]).callsComplete 0 ∧
      (answering [.granted] [.fails]).callAt 0 = .fails) ∧
    ((answering [.granted] [.completes, .fails]).callsComplete 1 ∧
      (answering [.granted] [.completes, .fails]).callAt 1 = .fails) ∧
    (encodeFrames State.reset.params (.readRegister 63)).length = 1 ∧
    (Instr.readRegister 63).admitted (answering [.fails] []) := by
  unfold State.callsComplete Instr.admitted; decide

/-- A bus command that completes (the hypotheses of the trace and chip-select statements). -/
theorem witness_OneClaimForEachBusCommand :
    (Instr.readMemory 0xFFF 2).isBusCommand = true ∧ (Instr.readMemory 0xFFF 2).admitted (ready []) ∧
    (ready []).busServes (encodeFrames (ready []).params (.readMemory 0xFFF 2)).length :=
  ⟨by decide, by unfold Instr.admitted; decide, witness_busServes [] 2⟩

/-- Every command answers a next state: the hypothesis of the frame statements, for a bus command, for BEGIN, for a
converter and in a state with both marks set. -/
theorem witness_next : (∃ t, exec (.sendCommand 0xFF) (ready [0]) = .next t) ∧
    (∃ t, exec .beginLines State.reset = .next t) ∧ (∃ t, exec (.setFullscale 1) State.reset = .next t) ∧
    ∃ t, exec .beginLines { State.reset with fault := true, refused := true } = .next t :=
  ⟨⟨_, rfl⟩, ⟨_, rfl⟩, ⟨_, rfl⟩, ⟨_, rfl⟩⟩

/-- A command that is neither SET_FULLSCALE, BEGIN nor a label command, and has a next state. -/
theorem witness_other_commands : (∃ t, exec .resetSensor (ready [0]) = .next t) ∧
    (∀ f, Instr.resetSensor ≠ .setFullscale f) ∧ Instr.resetSensor ≠ .beginLines ∧
    (∀ a n, Instr.resetSensor ≠ .readLabel a n) ∧
    Instr.resetSensor ∉ [.readProductNumber, .readSerialNumber, .readFullscaleLabel1, .readFullscaleLabel2,
      .readDeviceType, .readSpeedClass] := by
  refine ⟨⟨_, rfl⟩, by simp, by simp, by simp, by decide⟩

/-- A reset state with one command to run. -/
def withBegin : State := { State.reset with program := [.beginLines] }

/-- A state that meets the three invariants and has a next state. -/
theorem witness_invariants : withBegin.busDiscipline ∧ withBegin.traceLegal ∧ withBegin.outcomesAgree ∧
    ∃ t, step withBegin = .next t ∧ t.started = true := by
  refine ⟨⟨by decide, fun _ => by decide⟩, by simp [State.traceLegal, withBegin, State.reset, State.construct],
    ⟨rfl, by decide, by simp [withBegin, State.reset, State.construct]⟩, ⟨_, rfl, rfl⟩⟩

/-- One-frame commands with operands at the bounds, started and served; and the failures of their one frame and of
their release. -/
theorem witness_registerCommands : (255 < 256 ∧ 63 < 64 ∧ 0xFFFFFF < 2 ^ 24) ∧
    ((ready [1, 2, 3, 4]).started = true ∧ (ready [1, 2, 3, 4]).busServes 1) ∧
    ((answering [.granted] [.fails]).started = true ∧ 0 < 1 ∧ (answering [.granted] [.fails]).claimNow = .granted ∧
      (answering [.granted] [.fails]).callsComplete 0 ∧ (answering [.granted] [.fails]).callAt 0 = .fails) ∧
    ((answering [.granted] [.completes, .fails]).started = true ∧
      (answering [.granted] [.completes, .fails]).claimNow = .granted ∧
      (answering [.granted] [.completes, .fails]).callsComplete 1 ∧
      (answering [.granted] [.completes, .fails]).callAt 1 = .fails) :=
  ⟨by decide, ⟨rfl, witness_busServes _ 1⟩, by unfold State.callsComplete; decide,
    by unfold State.callsComplete; decide⟩

theorem witness_WireDecodesWhatWasEncoded : (Instr.writeMemory 0x1FFF [255, 0]).wellFormed = true ∧
    encodeFrames OpenParams.unset (.writeMemory 0x1FFF [255, 0]) ≠ [] ∧ Instr.readDeviceType.wellFormed = true ∧
    encodeFrames exampleParams .readDeviceType ≠ [] := by decide

theorem witness_WireDecoderAcceptsOnlyEncodings :
    decodeSpan [[0x3F, 0xFF, 0x00]] = .ok (.readOtp 0x1FFF 1) ∧
    decodeSpan [[0x7F, 0x00, 0x00, 0x00]] = .ok (.readRegister 63) := by decide

/-- Lengths no frame has (R111). -/
theorem witness_FramesAreClassified : ([] : List Byte).length ≠ 1 ∧ ([] : List Byte).length ≠ 3 ∧
    ([] : List Byte).length ≠ 4 ∧ ([0, 0] : List Byte).length ≠ 1 ∧ ([0, 0] : List Byte).length ≠ 3 ∧
    ([0, 0] : List Byte).length ≠ 4 := by decide

/-- The index and value bounds of the register statements, and the first values beyond them. -/
theorem witness_registers : 63 < 64 ∧ 0xFFFFFF < 2 ^ 24 ∧ 64 ≤ 64 ∧ 2 ^ 24 ≤ 0x1000000 ∧ 255 < 256 ∧ 256 ≤ 256 ∧
    0xFFFFFFFF < 2 ^ 32 ∧ 2 ^ 32 ≤ 0x100000000 := by decide

/-- A started state and one that is not (the two clauses of the bus commands' rules). -/
theorem witness_started : State.reset.started = false ∧ (ready []).started = true := by decide

/-- An OPEN address with a value and one without. -/
theorem witness_parameters : (ready []).params.labelSpeedClass = none ∧
    ({ ready [] with params := exampleParams } : State).started = true ∧
    ({ ready [] with params := exampleParams } : State).params.labelSpeedClass = some 0x050 ∧
    ({ ready [] with params := exampleParams } : State).params.sramCrc = some 0x0FFE ∧
    ({ ready [] with params := exampleParams } : State).params.otpCrc = some 0x1FFC := by decide

/-- A started state with an OPEN address set in which the bus layer serves the 32 frames of a label. -/
theorem witness_LabelAccessorsReadTheirFields :
    ({ ready [] with params := exampleParams } : State).started = true ∧
    ({ ready [] with params := exampleParams } : State).params.labelProductNumber = some 0x100 ∧
    ({ ready [] with params := exampleParams } : State).busServes 32 :=
  ⟨rfl, rfl, witness_busServes [] 32⟩

/-- Data bytes at the bound, and one beyond it. -/
theorem witness_WriteMemorySendsTheSpan : (∀ d ∈ [0, 255], d < 256) ∧ (∃ d ∈ [0, 256], 256 ≤ d) ∧
    ∀ d ∈ ([] : List Nat), d < 256 := by decide

/-- Frames of each length, completing and failing. -/
theorem witness_FrameExchangesByteForByte : ([0x88] : List Byte).length = 1 ∧ ([0x10, 0, 0] : List Byte).length = 3 ∧
    ([0x40, 0, 0, 0] : List Byte).length = 4 ∧ (ready []).callAt 0 = .completes ∧
    (answering [] [.fails]).callAt 0 = .fails ∧ ([1] : List Byte).length = ([0x88] : List Byte).length := by decide

theorem witness_ClaimAndReleaseAreRecorded : (ready []).claimNow = .granted ∧
    (answering [.notYet] []).claimNow = .notYet ∧ (ready []).callAt 0 = .completes := by decide

theorem witness_EmptySpansSendNothing : (ready []).started = true ∧ (ready []).busServes 0 ∧
    (Instr.writeMemory 0xFFF [], Result.unit) ∈ [(Instr.readMemory 0xFFF 0, Result.bytes []),
      (.readOtp 0xFFF 0, .bytes []), (.writeMemory 0xFFF [], .unit)] :=
  ⟨rfl, witness_busServes [] 0, by decide⟩

/-- A buffer with its first zero at the last scanned place, and one with none among the scanned bytes. -/
theorem witness_LabelScanStopsAtTheFirstZero :
    (2 < 3 ∧ ([0x41, 0x42, 0] : List Byte)[2] = 0 ∧ ∀ j, (hj : j < 2) →
      ([0x41, 0x42, 0] : List Byte)[j]'(Nat.lt_trans hj (by decide)) ≠ 0) ∧
    (∀ b ∈ ([0x41, 0x42, 0] : List Byte).take 2, b ≠ 0) ∧
    ([0x41, 0x42, 0] : List Byte).take 2 = ([0x41, 0x42, 7] : List Byte).take 2 := by decide

/-- A label command that returns a label of one byte. -/
theorem witness_LabelsAreZeroFreeAndShort :
    ∃ t, exec (.readLabel 0x100 2) (ready [1, 2, 0x41, 3, 4, 0]) = .next t ∧
      t.outcomes = (ready [1, 2, 0x41, 3, 4, 0]).outcomes ++ [.ok (.label [0x41])] := by
  have h : seen (exec (.readLabel 0x100 2) (ready [1, 2, 0x41, 3, 4, 0])) =
      some ([.began 10 7, claim4M, .frame [0x11, 0, 0] [1, 2, 0x41],
        .frame [0x11, 1, 0] [3, 4, 0], .release], [.ok (.label [0x41])]) := by decide +kernel
  obtain ⟨t, ht, _, ho⟩ := next_of_seen h
  exact ⟨t, ht, ho⟩

/-- The four-byte read that READ_SRAM_CRC expands to, completing with four bytes. -/
theorem witness_PseudoCommandsExpand :
    ∃ t, exec (.readMemory 0xFFE 4) { ready (answersWith [1, 2, 3, 4]) with params := exampleParams } = .next t ∧
      t.outcomes = [.ok (.bytes [1, 2, 3, 4])] := by
  have h : seen (exec (.readMemory 0xFFE 4) { ready (answersWith [1, 2, 3, 4]) with params := exampleParams }) =
      some ([.began 10 7, claim4M, .frame [0x1F, 0xFE, 0] [0xEE, 0xEE, 1],
        .frame [0x1F, 0xFF, 0] [0xEE, 0xEE, 2], .frame [0x10, 0x00, 0] [0xEE, 0xEE, 3],
        .frame [0x10, 0x01, 0] [0xEE, 0xEE, 4], .release], [.ok (.bytes [1, 2, 3, 4])]) := by decide +kernel
  obtain ⟨t, ht, _, ho⟩ := next_of_seen h
  exact ⟨t, ht, ho⟩

/-- Factors of each kind: NaN, infinite, zero, finite; a finite full-scale that overflows and one whose result is
finite. -/
theorem witness_MultiplicationFollowsIeee : f32IsNaN 0x7FC00000 = true ∧ f32IsInf 0xFF800000 = true ∧
    f32IsZero 0x80000000 = true ∧ (f32IsFinite 0x3F800000 = true ∧ f32IsZero 0x3F800000 = false) ∧
    (f32IsFinite 0x7F7FC99E = true ∧ f32IsInf (pressureOf 0x7FC00000 0x800000 0x7F7FC99E) = true) ∧
    f32IsFinite (pressureOf 0x7FC00000 0x800000 0x3F800000) = true := by decide +kernel

/-- A reading of zero, a negative one, and a positive denominator. -/
theorem witness_readings : reading24 0x01000000 = 0 ∧ reading24 0x800000 = -8388608 ∧ 0 < 2097152 := by decide

/-- The bytes around a frame on the wire (R110): chip-select low for the start and two bytes' sixteen samples each. -/
theorem test_frame_wave : (frameWave [0x5A, 1] [2, 3]).map (fun x => x.csN) = List.replicate 33 .low ++ [.high] ∧
    sampledMosi (frameWave [0x5A, 1] [2, 3]) = [0x5A, 1].flatMap msbFirstBits := by decide

end Sys2Proof.Tests
end

section
/-! The configuration, the constants, the OPEN parameters and the host's list under a command (spec/10_state.md R22 to
R28): every way a command can end keeps them. -/

namespace Sys2Proof.Machine

variable {i : Instr} {s t : State}

theorem State.sameConfig_afterRefusal (s : State) (why : RefuseReason) (i : Instr) :
    s.sameConfig (s.afterRefusal why i) := ⟨rfl, rfl, rfl, rfl, rfl, rfl, rfl⟩

theorem State.sameConfig_claimAsked (s : State) : s.sameConfig s.claimAsked := by simp [State.sameConfig]

theorem State.failedTo.sameConfig {events : List BusEvent} (h : s.failedTo t events) : s.sameConfig t := by
  obtain ⟨-, -, -, -, hconfig, -⟩ := h
  exact hconfig

/-- A bus command keeps the configuration whatever the bus layer does: a wait, a failed call, a completion. -/
theorem BusOutcome.sameConfig (h : BusOutcome i s t) : s.sameConfig t := by
  cases h with
  | waits h => exact h ▸ s.sameConfig_claimAsked
  | fails events h _ => exact h.sameConfig
  | served r buf label env h => rw [h]; exact ⟨rfl, rfl, rfl, rfl, rfl, rfl, rfl⟩

/-- A command without frames answers a next state of the same configuration. -/
theorem exec_other_sameConfig (hb : i.isBusCommand = false) (ha : i.admitted s) :
    ∃ t, exec i s = .next t ∧ s.sameConfig t := by
  obtain ⟨t, r, env, events, ht, heq, -⟩ := exec_other hb ha
  exact ⟨t, ht, by rw [heq]; exact ⟨rfl, rfl, rfl, rfl, rfl, rfl, rfl⟩⟩

/-- Every command in every state answers a next state of the same configuration. -/
theorem exec_sameConfig (i : Instr) (s : State) : ∃ t, exec i s = .next t ∧ s.sameConfig t := by
  rcases exec_cases i s with ⟨why, hrefused⟩ | ⟨-, -, t, ht, hbus⟩ | ⟨hb, ha⟩
  · exact ⟨_, hrefused, s.sameConfig_afterRefusal why i⟩
  · exact ⟨t, ht, hbus.sameConfig⟩
  · exact exec_other_sameConfig hb ha

/-- Settles O12, from `exec_sameConfig`: `exec` has one answer, and that one keeps the configuration. -/
theorem configurationNeverChanges : Obligations.ConfigurationNeverChanges := by
  intro i s t ht
  obtain ⟨u, hu, hconfig⟩ := exec_sameConfig i s
  cases ht.symm.trans hu
  exact hconfig

end Sys2Proof.Machine
end

section
/-! The marks FAULT and REFUSED under a command and at the next step (spec/10_state.md R35): a command ends with each
mark as it was or set, and no step follows a mark. -/

namespace Sys2Proof.Machine

variable {i : Instr} {s t : State}

/-- From `s` to `t` no mark is cleared (R35). -/
def State.keepsMarks (s t : State) : Prop :=
  (s.fault = true → t.fault = true) ∧ (s.refused = true → t.refused = true)

theorem State.keepsMarks_of_eq (hfault : t.fault = s.fault) (hrefused : t.refused = s.refused) : s.keepsMarks t :=
  ⟨hfault.trans, hrefused.trans⟩

theorem State.keepsMarks_afterRefusal (s : State) (why : RefuseReason) (i : Instr) :
    s.keepsMarks (s.afterRefusal why i) := ⟨id, fun _ => rfl⟩

theorem State.failedTo.keepsMarks {events : List BusEvent} (h : s.failedTo t events) : s.keepsMarks t := by
  obtain ⟨hfault, -, -, -, -, -, -, hrefused, -⟩ := h
  exact ⟨fun _ => hfault, hrefused.trans⟩

/-- A bus command clears no mark whatever the bus layer does: a wait, a failed call, a completion. -/
theorem BusOutcome.keepsMarks (h : BusOutcome i s t) : s.keepsMarks t := by
  cases h with
  | waits h => exact h ▸ State.keepsMarks_of_eq s.claimAsked_fault s.claimAsked_refused
  | fails events h _ => exact h.keepsMarks
  | served r buf label env h => rw [h]; exact State.keepsMarks_of_eq rfl rfl

/-- Every command in every state answers a next state in which no mark is cleared. -/
theorem exec_keepsMarks (i : Instr) (s : State) : ∃ t, exec i s = .next t ∧ s.keepsMarks t := by
  rcases exec_cases i s with ⟨why, hrefused⟩ | ⟨-, -, t, ht, hbus⟩ | ⟨hb, ha⟩
  · exact ⟨_, hrefused, s.keepsMarks_afterRefusal why i⟩
  · exact ⟨t, ht, hbus.keepsMarks⟩
  · obtain ⟨t, r, env, events, ht, heq, -⟩ := exec_other hb ha
    exact ⟨t, ht, by rw [heq]; exact State.keepsMarks_of_eq rfl rfl⟩

theorem step_of_fault (h : s.fault = true) : step s = .fault .busFailure := if_pos h

theorem step_of_refused (hfault : s.fault = false) (h : s.refused = true) : step s = .refused s.lastRefusal := by
  simp [step, hfault, h]

theorem step_ne_next_of_mark (h : s.fault = true ∨ s.refused = true) (t : State) : step s ≠ .next t := by
  cases hfault : s.fault with
  | true => simp [step_of_fault hfault]
  | false => simp [step_of_refused hfault (h.resolve_left (by simp [hfault]))]

theorem not_succeeded_of_mark (h : s.fault = true ∨ s.refused = true) : ¬ s.succeeded := by
  rintro ⟨-, hfault, hrefused⟩
  simp [hfault, hrefused] at h

/-- Settles O7, from `exec_keepsMarks` for the commands and `step_ne_next_of_mark` for the step after a mark. -/
theorem marksAreNeverCleared : Obligations.MarksAreNeverCleared := by
  refine ⟨rfl, rfl, fun s => ⟨s.busFailure_fault, s.refuse_refused⟩, fun i s t ht => ?_,
    fun s h => ⟨not_succeeded_of_mark h, step_ne_next_of_mark h⟩⟩
  obtain ⟨u, hu, hmarks⟩ := exec_keepsMarks i s
  cases ht.symm.trans hu
  exact hmarks

end Sys2Proof.Machine
end

section
/-! STARTED under a command (spec/10_state.md R34): BEGIN sets it, no other command moves it, and the commands that
read it are refused while it is false (30_encoding.md R95, check 2). -/

namespace Sys2Proof.Machine

variable {i : Instr} {s t : State}

theorem exec_begin (s : State) : exec .beginLines s = .next (s.begun.complete .unit) :=
  checkRange_wellFormed (i := .beginLines) (s := s) rfl

theorem State.failedTo.started {events : List BusEvent} (h : s.failedTo t events) : t.started = s.started := by
  obtain ⟨-, -, -, -, -, -, hstarted, -⟩ := h
  exact hstarted

/-- A bus command keeps STARTED whatever the bus layer does: a wait, a failed call, a completion. -/
theorem BusOutcome.started (h : BusOutcome i s t) : t.started = s.started := by
  cases h with
  | waits h => exact h ▸ s.claimAsked_started
  | fails events h _ => exact h.started
  | served r buf label env h => rw [h]

/-- Every command but BEGIN answers a next state with STARTED as it was. -/
theorem exec_started (hi : i ≠ .beginLines) (s : State) : ∃ t, exec i s = .next t ∧ t.started = s.started := by
  rcases exec_cases i s with ⟨why, hrefused⟩ | ⟨-, -, t, ht, hbus⟩ | ⟨hb, ha⟩
  · exact ⟨_, hrefused, rfl⟩
  · exact ⟨t, ht, hbus.started⟩
  · obtain ⟨t, r, env, events, ht, -, -, -, hother, -⟩ := exec_other hb ha
    obtain ⟨-, hstarted, -⟩ := hother hi
    exact ⟨t, ht, hstarted⟩

/-- A command that needs BEGIN asks for it first, after its range check (R95, checks 1 and 2). -/
theorem exec_eq_checkStarted (hn : i.needsBegin = true) (s : State) : ∃ act, exec i s = checkStarted i s act := by
  cases i with
  | beginLines | setFullscale _ | signExtend24 _ | convertPressure _ _ | convertPressureStored _
  | convertTemperature _ => cases hn
  | _ => exact ⟨_, rfl⟩

theorem exec_notStarted (hn : i.needsBegin = true) (hw : i.wellFormed = true) (hs : s.started = false) :
    exec i s = .next (s.afterRefusal .notStarted i) := by
  obtain ⟨act, hexec⟩ := exec_eq_checkStarted hn s
  exact hexec.trans (checkStarted_notStarted hw hs)

theorem needsBegin_of_bus_or_isDataAvailable (h : i.isBusCommand = true ∨ i = .isDataAvailable) :
    i.needsBegin = true := by
  rcases h with hbus | rfl
  · exact ((Instr.isBusCommand_iff i).mp hbus).1
  · rfl

/-- Settles O14: BEGIN by `exec_begin`, every other command by `exec_started`, the refusals by `exec_notStarted`. -/
theorem startedIsSetOnlyByBegin : Obligations.StartedIsSetOnlyByBegin := by
  refine ⟨rfl, fun i s t ht => ⟨?_, fun hi => ?_⟩, fun i s hi hw hs =>
    exec_notStarted (needsBegin_of_bus_or_isDataAvailable hi) hw hs⟩
  · rintro rfl
    cases ht.symm.trans (exec_begin s)
    rfl
  · obtain ⟨u, hu, hstarted⟩ := exec_started hi s
    cases ht.symm.trans hu
    exact hstarted

end Sys2Proof.Machine
end

section
/-! The byte order of the register value (spec/20_memory.md R56): how shifted bytes assemble into a word, and the value
of a received and of a sent register frame. -/

namespace Sys2Proof.Machine

/-- Or-ing a byte shifted into place with a word below that place adds the two. -/
theorem toNat_byte_shiftLeft_or (b : Byte) {low : Word32} {k : Nat} (hk : k ≤ 24) (hlow : low.toNat < 2 ^ k) :
    (b.setWidth 32 <<< k ||| low).toNat = b.toNat * 2 ^ k + low.toNat := by
  have hfits : b.toNat * 2 ^ k < 2 ^ 32 :=
    calc b.toNat * 2 ^ k < 2 ^ 8 * 2 ^ k := Nat.mul_lt_mul_of_pos_right b.isLt (Nat.two_pow_pos k)
      _ = 2 ^ (8 + k) := (Nat.pow_add 2 8 k).symm
      _ ≤ 2 ^ 32 := Nat.pow_le_pow_right (by decide) (by omega)
  rw [BitVec.toNat_or, BitVec.toNat_shiftLeft, BitVec.toNat_setWidth_of_le (by decide), Nat.shiftLeft_eq,
    Nat.mod_eq_of_lt hfits, Nat.mul_comm, Nat.two_pow_add_eq_or_of_lt hlow]

/-- The value of a received register frame: byte 1 is most significant. -/
theorem toNat_registerValue (b0 b1 b2 b3 : Byte) :
    (registerValue [b0, b1, b2, b3]).toNat = b1.toNat * 2 ^ 16 + b2.toNat * 2 ^ 8 + b3.toNat := by
  have h3 : (b3.setWidth 32).toNat = b3.toNat := BitVec.toNat_setWidth_of_le (by decide)
  have h23 : (b2.setWidth 32 <<< 8 ||| b3.setWidth 32).toNat = b2.toNat * 2 ^ 8 + b3.toNat := by
    rw [toNat_byte_shiftLeft_or b2 (by decide) (h3 ▸ b3.isLt), h3]
  calc (registerValue [b0, b1, b2, b3]).toNat
      = (b1.setWidth 32 <<< 16 ||| (b2.setWidth 32 <<< 8 ||| b3.setWidth 32)).toNat :=
        congrArg BitVec.toNat (BitVec.or_assoc _ _ _)
    _ = b1.toNat * 2 ^ 16 + (b2.toNat * 2 ^ 8 + b3.toNat) := by
        rw [toNat_byte_shiftLeft_or b1 (by decide) (by omega), h23]
    _ = b1.toNat * 2 ^ 16 + b2.toNat * 2 ^ 8 + b3.toNat := (Nat.add_assoc _ _ _).symm

/-- The value read back from the bytes a register write sends, whatever the register. -/
theorem toNat_registerValue_regWriteFrame (reg : Nat) {value : Nat} (h : value < 2 ^ 24) :
    (registerValue (regWriteFrame reg value)).toNat = value := by
  rw [regWriteFrame, toNat_registerValue]
  simp only [BitVec.toNat_ofNat, Nat.shiftRight_eq_div_pow]
  omega

/-- Settles O30, from the frame a write sends, the value a received frame carries, and the two composed. -/
theorem registersAreBigEndian : Obligations.RegistersAreBigEndian :=
  ⟨fun _ value hreg _ => regWriteFrame_eq value hreg, toNat_registerValue,
    fun reg _ hvalue => toNat_registerValue_regWriteFrame reg hvalue⟩

end Sys2Proof.Machine
end

section
/-! The refusal checks of spec/30_encoding.md R95, each as what `exec` answers when it is the first to fail. -/

namespace Sys2Proof.Machine

variable {i : Instr} {s : State}

/-- Every command checks its operands first (R95, check 1). -/
theorem exec_eq_checkRange (i : Instr) (s : State) : ∃ act, exec i s = checkRange i s act := by
  cases i <;> exact ⟨_, rfl⟩

theorem exec_operandRange (hw : i.wellFormed = false) : exec i s = .next (s.afterRefusal .operandRange i) := by
  obtain ⟨act, hexec⟩ := exec_eq_checkRange i s
  exact hexec.trans (checkRange_outOfRange hw)

/-- A command at an OPEN address asks for its value after the two other checks (R95, check 3). -/
theorem exec_eq_withParameter {p : Option Nat} (hp : i.openParameter s.params = some p) :
    ∃ act, exec i s = checkStarted i s (withParameter i p s act) := by
  cases i with
  | readProductNumber | readSerialNumber | readFullscaleLabel1 | readFullscaleLabel2 | readDeviceType
  | readSpeedClass | readSramCrc | readOtpCrc => cases hp; exact ⟨_, rfl⟩
  | _ => cases hp

theorem exec_parameterOpen (hw : i.wellFormed = true) (hs : s.started = true)
    (hp : i.openParameter s.params = some none) : exec i s = .next (s.afterRefusal .parameterOpen i) := by
  obtain ⟨act, hexec⟩ := exec_eq_withParameter hp
  exact execOpen_none hw hs rfl hexec

/-- Settles O5: one lemma for each check, and no step follows the mark REFUSED. -/
theorem refusalChecksInOrder : Obligations.RefusalChecksInOrder := fun _ _ =>
  ⟨exec_operandRange, fun hw hn hs => exec_notStarted hn hw hs, exec_parameterOpen,
    fun _ t => step_ne_next_of_mark (.inr rfl) t⟩

end Sys2Proof.Machine
end

section
/-! The address bits a memory frame carries (spec/30_encoding.md R84), for the three variants at once: their frames
differ only in the opcode base and in the number of address bits beside it. -/

namespace Sys2Proof.Machine

/-- How many address bits stand in byte0: A[11:8] in a main-memory frame, A[12:8] in an OTP frame (R84). -/
def memHighBits : MemVariant → Nat
  | .mainRead => 4
  | .mainWrite => 4
  | .otpRead => 5

/-- The frame of each variant, with the address bits as arithmetic. -/
theorem memFrame_eq (v : MemVariant) (a : Nat) (d : Byte) :
    memFrame v a d = [byteOf (memOpcodeBase v + a / 2 ^ 8 % 2 ^ memHighBits v), byteOf (a % 2 ^ 8), d] := by
  cases v with
  | mainRead => exact memFrame_mainRead a d
  | mainWrite => exact memFrame_mainWrite a d
  | otpRead => exact memFrame_otpRead a d

theorem two_pow_memHighBits_dvd_memOpcodeBase (v : MemVariant) : 2 ^ memHighBits v ∣ memOpcodeBase v := by
  cases v <;> decide

theorem memOpcodeBase_add_lt (v : MemVariant) {x : Nat} (hx : x < 2 ^ memHighBits v) : memOpcodeBase v + x < 256 := by
  have hroom : memOpcodeBase v + 2 ^ memHighBits v ≤ 256 := by cases v <;> decide
  omega

/-- byte0 has the address bits from bit 8 on in its low bits. -/
theorem toNat_memFrame_byte0_mod (v : MemVariant) (a : Nat) (d : Byte) :
    (byteAt (memFrame v a d) 0).toNat % 2 ^ memHighBits v = a / 2 ^ 8 % 2 ^ memHighBits v := by
  have hhigh := Nat.mod_lt (a / 2 ^ 8) (Nat.two_pow_pos (memHighBits v))
  obtain ⟨q, hq⟩ := two_pow_memHighBits_dvd_memOpcodeBase v
  rw [memFrame_eq, byteAt, List.getD_cons_zero, toNat_byteOf (memOpcodeBase_add_lt v hhigh), hq, Nat.mul_add_mod,
    Nat.mod_mod]

theorem toNat_memFrame_byte1 (v : MemVariant) (a : Nat) (d : Byte) :
    (byteAt (memFrame v a d) 1).toNat = a % 2 ^ 8 := by
  rw [memFrame_eq]
  exact toNat_byteOf (Nat.mod_lt a (Nat.two_pow_pos 8))

/-- The frame does not see the address bits above those it carries. -/
theorem memFrame_mod (v : MemVariant) (a : Nat) (d : Byte) :
    memFrame v a d = memFrame v (a % 2 ^ (8 + memHighBits v)) d := by
  have hhigh : a % 2 ^ (8 + memHighBits v) / 2 ^ 8 = a / 2 ^ 8 % 2 ^ memHighBits v := by
    rw [Nat.pow_add, Nat.mod_mul_right_div_self]
  have hlow : a % 2 ^ (8 + memHighBits v) % 2 ^ 8 = a % 2 ^ 8 :=
    Nat.mod_mod_of_dvd a (Nat.pow_dvd_pow 2 (Nat.le_add_right 8 _))
  rw [memFrame_eq v a, memFrame_eq v (a % _), hhigh, hlow, Nat.mod_mod]

/-- Settles O28, from the places of the address bits and `memFrame_mod`, which hold of each variant. -/
theorem framesCarryTheLowAddressBits : Obligations.FramesCarryTheLowAddressBits := by
  refine fun a d => ⟨fun v hv => ?_, toNat_memFrame_byte0_mod .otpRead a d, toNat_memFrame_byte1 .otpRead a d,
    memFrame_mod .otpRead a d⟩
  have hbits : memHighBits v = 4 := by rcases hv with rfl | rfl <;> rfl
  have hbyte0 := toNat_memFrame_byte0_mod v a d
  have hmod := memFrame_mod v a d
  rw [hbits] at hbyte0 hmod
  exact ⟨hbyte0, toNat_memFrame_byte1 v a d, hmod⟩

end Sys2Proof.Machine
end

section
/-! The pseudo-commands of spec/30_encoding.md R93. An accessor runs the body of the command it stands for; a CRC read
is the memory read of the same frames with another end, so the two are compared where both complete. -/

namespace Sys2Proof.Machine

variable {i : Instr} {s t : State} {txs : List (List Byte)}

/-- What a served bus command does before its end does not depend on the end (R116, R117). -/
theorem busCommand_served_forall_finish (h : s.busServes txs.length) :
    ∃ v, v.outcomes = s.outcomes ∧ ∀ finish, busCommand txs finish s = .next (finish (s.answers txs) v) := by
  obtain ⟨hgranted, hcalls⟩ := h
  obtain ⟨u, hu, sent⟩ := sendFrames_completes txs s.claimAsked.claimGranted
    (fun k hk => by simpa using hcalls k (by omega))
  have hrelease : u.callAt 0 = .completes := by rw [sent.calls]; simpa using hcalls txs.length (by simp)
  obtain ⟨buf, env, hothers⟩ := sent.others
  refine ⟨u.callAsked.busReleased, by rw [hothers]; rfl, fun finish => ?_⟩
  simp [busCommand, busClaim, hgranted, hu, busRelease, hrelease]

/-- A bus command hands over a result only where the bus layer serves it (R281, R282). -/
theorem busServes_of_ok {finish : List (List Byte) → State → State} {r : Result}
    (h : busCommand txs finish s = .next t) (hok : t.outcomes = s.outcomes ++ [.ok r]) : s.busServes txs.length := by
  rcases busCommand_cases txs finish s with hwait | ⟨u, events, hu, hfailed, -⟩ | hserved
  · cases h.symm.trans hwait
    simp at hok
  · cases h.symm.trans hu
    obtain ⟨-, -, hfailure, -⟩ := hfailed
    simp [hfailure] at hok
  · exact hserved

/-- Where a read of bytes completes, the CRC read of the same frames leaves the same state, with the little-endian word
of the bytes as its result (R93, R209). -/
theorem busCommand_finishCrc_of_finishBytes {bs : List Byte} (h : busCommand txs finishBytes s = .next t)
    (hok : t.outcomes = s.outcomes ++ [.ok (.bytes bs)]) :
    busCommand txs finishCrc s =
      .next { t with outcomes := s.outcomes ++ [.ok (.uint32 (littleEndian32 bs))] } := by
  obtain ⟨v, hv, hfinish⟩ := busCommand_served_forall_finish (busServes_of_ok h hok)
  cases h.symm.trans (hfinish finishBytes)
  have hbs : bs = dataBytes (s.answers txs) := by simpa [finishBytes, hv, eq_comm] using hok
  rw [hfinish finishCrc, hbs, ← hv]
  rfl

/-- A started command at an OPEN address with a value runs its body at that value. -/
theorem execOpen_some {p : Option Nat} {act : Nat → Answer} {a : Nat} (hw : i.wellFormed = true)
    (hs : s.started = true) (hexec : exec i s = checkStarted i s (withParameter i p s act)) (hp : p = some a) :
    exec i s = act a := by
  rw [hexec, checkStarted_started hw hs, hp]
  rfl

theorem exec_readLabel (hs : s.started = true) (addr len : Nat) :
    exec (.readLabel addr len) s = labelCommand addr len s :=
  checkStarted_started (i := .readLabel addr len) rfl hs

/-- A label accessor expands to READ_LABEL at its address with its length (R93, R202 to R207). -/
theorem exec_label_accessor {p : Option Nat} {len : Nat} (hw : i.wellFormed = true) (hs : s.started = true)
    (hexec : exec i s = checkStarted i s (withParameter i p s fun a => labelCommand a len s)) (a : Nat)
    (hp : p = some a) : exec i s = exec (.readLabel a len) s :=
  (execOpen_some hw hs hexec hp).trans (exec_readLabel hs a len).symm

theorem exec_resetSensor (hs : s.started = true) : exec .resetSensor s = exec (.sendCommand 0x88) s :=
  (checkStarted_started (i := .resetSensor) rfl hs).trans
    (checkStarted_started (i := .sendCommand 0x88) rfl hs).symm

theorem exec_convertPressureStored {raw : Nat} (h : raw < 2 ^ 32) (s : State) :
    exec (.convertPressureStored raw) s = exec (.convertPressure raw s.fullscale) s :=
  (checkRange_wellFormed ((wellFormed_convertPressureStored raw).mpr h)).trans
    (checkRange_wellFormed ((wellFormed_convertPressure raw s.fullscale).mpr h)).symm

theorem exec_readMemory (hs : s.started = true) (addr n : Nat) :
    exec (.readMemory addr n) s = busCommand (spanFrames .mainRead addr (placeholders n)) finishBytes s :=
  checkStarted_started (i := .readMemory addr n) rfl hs

theorem exec_readOtp (hs : s.started = true) (addr n : Nat) :
    exec (.readOtp addr n) s = busCommand (spanFrames .otpRead addr (placeholders n)) finishBytes s :=
  checkStarted_started (i := .readOtp addr n) rfl hs

/-- Settles O49: the accessors by `exec_label_accessor`, the CRC reads by `busCommand_finishCrc_of_finishBytes`. -/
theorem pseudoCommandsExpand : Obligations.PseudoCommandsExpand := by
  refine fun s hs => ⟨exec_resetSensor hs, exec_label_accessor rfl hs rfl, exec_label_accessor rfl hs rfl,
    exec_label_accessor rfl hs rfl, exec_label_accessor rfl hs rfl, exec_label_accessor rfl hs rfl,
    exec_label_accessor rfl hs rfl, fun raw hraw => exec_convertPressureStored hraw s,
    fun a t bs hp hread hok => ?_, fun a t bs hp hread hok => ?_⟩
  · rw [execOpen_some (i := .readSramCrc) rfl hs rfl hp]
    exact busCommand_finishCrc_of_finishBytes ((exec_readMemory hs a 4).symm.trans hread) hok
  · rw [execOpen_some (i := .readOtpCrc) rfl hs rfl hp]
    exact busCommand_finishCrc_of_finishBytes ((exec_readOtp hs a 4).symm.trans hread) hok

end Sys2Proof.Machine
end

section
/-! The trace of a served bus command (spec/40_transaction.md R116, R117): its end adds no event to the claim, the
frames and the release. -/

namespace Sys2Proof.Machine

theorem EndsWithResult.trace {finish : List (List Byte) → State → State} (h : EndsWithResult finish)
    (rxs : List (List Byte)) (v : State) : (finish rxs v).trace = v.trace := by
  obtain ⟨r, label, hfinish⟩ := h rxs v
  rw [hfinish]

/-- Settles O10: `exec_bus` gives the command's shape, `busCommand_served` the trace before its end. -/
theorem oneClaimForEachBusCommand : Obligations.OneClaimForEachBusCommand := by
  intro i s hbus hadmitted hserves
  obtain ⟨finish, hends, hexec⟩ := exec_bus hbus hadmitted
  obtain ⟨v, hserved, htrace, -⟩ := busCommand_served (finish := finish) hserves
  exact ⟨_, hexec.trans hserved, (hends.trace _ v).trans htrace⟩

end Sys2Proof.Machine
end

section
/-! A byte on the wire (spec/40_transaction.md R112): the clock pulses of its bits, what each side samples of them, and
the byte assembled from the bits received. -/

namespace Sys2Proof.Machine

theorem msbFirstBits_eq (b : Byte) :
    msbFirstBits b = [b[7], b[6], b[5], b[4], b[3], b[2], b[1], b[0]] := rfl

/-- The pulses of a byte's exchange, in the order of time: the k-th carries bit 7-k of each side. -/
theorem byteWave_eq_flatMap (b m : Byte) :
    byteWave b m = (List.range 8).flatMap fun k => clockPulse (b.getLsbD (7 - k)) (m.getLsbD (7 - k)) := by
  rw [byteWave, msbFirstBits, msbFirstBits, List.zip_map', List.flatMap_map]
  rfl

/-- A side that samples on trailing edges sees each bit of the exchange once, in order. -/
theorem atTrailingEdges_byteWave (b m : Byte) :
    atTrailingEdges .low (byteWave b m) =
      ((msbFirstBits b).zip (msbFirstBits m)).map fun x => ⟨.low, .low, some x.1, some x.2⟩ := by
  simpa [byteWave, atTrailingEdges] using atTrailingEdges_pulses ((msbFirstBits b).zip (msbFirstBits m)) []

theorem sampledMosi_byteWave (b m : Byte) : sampledMosi (byteWave b m) = msbFirstBits b := by
  rw [sampledMosi, atTrailingEdges_byteWave]
  rfl

theorem sampledMiso_byteWave (b m : Byte) : sampledMiso (byteWave b m) = msbFirstBits m := by
  rw [sampledMiso, atTrailingEdges_byteWave]
  rfl

/-- The bit received last becomes bit 0 and moves the ones before it up by one place. -/
theorem byteOfBits_concat (bits : List Bool) (x : Bool) :
    byteOfBits (bits ++ [x]) = byteOfBits bits <<< 1 ||| if x then 1 else 0 := by
  simp [byteOfBits]

/-- Bit j of the byte is the bit received j places before the last. -/
theorem getLsbD_byteOfBits (bits : List Bool) {j : Nat} (hj : j < 8) :
    (byteOfBits bits).getLsbD j = bits.reverse.getD j false := by
  induction bits using List.reverseRecOn generalizing j with
  | nil => simp [byteOfBits]
  | append_singleton bits x ih =>
    rw [byteOfBits_concat, List.reverse_concat]
    cases j with
    | zero => cases x <;> simp
    | succ j =>
      have hlast : (if x then 1 else 0 : Byte).getLsbD (j + 1) = false := by cases x <;> simp
      rw [List.getD_cons_succ, ← ih (by omega), BitVec.getLsbD_or, hlast, BitVec.getLsbD_shiftLeft]
      simp [hj]

/-- Settles O32, from the pulses of a byte, what is sampled of them, and the byte made of eight bits. -/
theorem bytesAreSerialisedMsbFirst : Obligations.BytesAreSerialisedMsbFirst := by
  refine ⟨fun b m => ⟨?_, ?_, byteWave_eq_flatMap b m, exchangeByte_eq b m⟩, fun x0 x1 x2 x3 x4 x5 x6 x7 k => ?_⟩
  · rw [sampledMosi_byteWave, msbFirstBits_eq]
  · rw [sampledMiso_byteWave, msbFirstBits_eq]
  · rw [getLsbD_byteOfBits _ (by omega)]
    fin_cases k <;> rfl

end Sys2Proof.Machine
end

section
/-! One frame (spec/40_transaction.md R110): the levels of chip-select at its event, and the bytes it leaves in
FRAME_BUF. -/

namespace Sys2Proof.Machine

theorem csLevels_append (before after : List BusEvent) :
    csLevels (before ++ after) = csLevels before ++ csLevels after := List.flatMap_append

/-- The bytes received stand in the first places of FRAME_BUF, where they fit (R113). -/
theorem State.bufferAfter_take (s : State) {rx : List Byte} (h : rx.length ≤ 4) :
    (s.bufferAfter rx).toList.take rx.length = rx := overwrite_take _ _ _ h

/-- Settles O33: the two answers of the bus layer by `frame_completes` and `frame_fails`, and the state of a completed
frame by the laws of `State.framed`. -/
theorem frameExchangesByteForByte : Obligations.FrameExchangesByteForByte := by
  intro tx s hlen
  have hfits : (s.received tx).length ≤ 4 := by rw [s.length_received]; omega
  rw [← s.received_eq tx]
  refine ⟨fun hcompletes => ⟨s.callAsked.framed tx (s.received tx), s.callAsked.bufferAfter (s.received tx), _,
    frame_completes hcompletes, rfl, ?_, ?_, fun k => by simp, fun k => by simp⟩,
    fun hfails => ⟨_, frame_fails hfails, rfl⟩⟩
  · simpa using s.callAsked.bufferAfter_take hfits
  · rw [State.framed_trace, csLevels_append]
    rfl

end Sys2Proof.Machine
end

section
/-! The register codec (spec/41_register_codec.md R141 to R144): one frame for each command. A bus command that writes no
label meets its rule once its frames fit FRAME_BUF and its end hands over the result it makes of the answers. -/

namespace Sys2Proof.Machine

/-- The rule of a bus command without an OPEN parameter and without a label, from its shape (R95, R116, R117, R281). -/
theorem busRule_of_checkStarted {i : Instr} {txs : List (List Byte)} {result : List (List Byte) → Result}
    {finish : List (List Byte) → State → State} (hw : i.wellFormed = true)
    (hexec : ∀ s, exec i s = checkStarted i s (busCommand txs finish s)) (hlen : ∀ tx ∈ txs, tx.length ≤ 4)
    (hfinish : ∀ rxs v, finish rxs v = v.complete (result rxs)) : busRule i txs result noLabel := by
  refine fun s => ⟨fun hs => (hexec s).trans (checkStarted_notStarted hw hs), fun hs => ?_⟩
  have hbus : exec i s = busCommand txs finish s := (hexec s).trans (checkStarted_started hw hs)
  refine busBehaviour_of hbus hlen fun v hlabel => ⟨v.labelBuf, hfinish _ v, fun _ => hlabel, ?_⟩
  intro bytes hnone
  cases hnone

/-- The same rule for a command of one legal frame. -/
theorem busRule_of_oneFrame {i : Instr} {tx : List Byte} {result : List (List Byte) → Result}
    {finish : List (List Byte) → State → State} (hw : i.wellFormed = true) (hlegal : legalFrame tx)
    (hexec : ∀ s, exec i s = checkStarted i s (busCommand [tx] finish s))
    (hfinish : ∀ rxs v, finish rxs v = v.complete (result rxs)) : busRule i [tx] result noLabel :=
  busRule_of_checkStarted hw hexec
    (fun _ hmem => List.mem_singleton.mp hmem ▸ length_le_of_legalFrame hlegal) hfinish

theorem finishUnit_eq (rxs : List (List Byte)) (v : State) : finishUnit rxs v = v.complete .unit := rfl

/-- A register value as a number in its container, whatever was received (R56, R143). -/
theorem registerValue_eq_ofNat (rx : List Byte) :
    registerValue rx = BitVec.ofNat 32
      ((byteAt rx 1).toNat * 2 ^ 16 + (byteAt rx 2).toNat * 2 ^ 8 + (byteAt rx 3).toNat) := by
  have hvalue : (registerValue rx).toNat = _ :=
    toNat_registerValue (byteAt rx 0) (byteAt rx 1) (byteAt rx 2) (byteAt rx 3)
  rw [← hvalue, BitVec.ofNat_toNat, BitVec.setWidth_eq]

/-- Settles O35: the rule by `busRule_of_oneFrame` on the command frame, the refusal by `exec_operandRange`. -/
theorem sendCommandSendsItsByte : Obligations.SendCommandSendsItsByte := by
  refine fun cmd => ⟨fun hcmd => ?_, fun hcmd s => exec_operandRange ?_⟩
  · exact busRule_of_oneFrame ((wellFormed_sendCommand cmd).mpr hcmd) (legalFrame_command cmd) (fun _ => rfl)
      finishUnit_eq
  · rw [← Bool.not_eq_true, wellFormed_sendCommand]
    omega

/-- Settles O36: the rule by `busRule_of_oneFrame` on the reset byte's frame, the expansion by `exec_resetSensor`. -/
theorem resetSensorSends88 : Obligations.ResetSensorSends88 :=
  ⟨busRule_of_oneFrame rfl (legalFrame_command Config.resetCommand) (fun _ => rfl) finishUnit_eq,
    fun _ => exec_resetSensor⟩

/-- Settles O37: the frame by `regReadFrame_eq`, the result by `registerValue_eq_ofNat`. -/
theorem readRegisterReturnsTheValue : Obligations.ReadRegisterReturnsTheValue := by
  refine fun reg => ⟨fun hreg => ?_, fun hreg s => exec_operandRange ?_⟩
  · rw [← regReadFrame_eq hreg]
    refine busRule_of_oneFrame ((wellFormed_readRegister reg).mpr hreg) (legalFrame_regRead hreg) (fun _ => rfl)
      fun rxs v => ?_
    rw [finishRegister, registerValue_eq_ofNat]
  · rw [← Bool.not_eq_true, wellFormed_readRegister]
    omega

/-- Settles O38: the frame by `regWriteFrame_eq`; the answer is discarded. -/
theorem writeRegisterSendsTheValue : Obligations.WriteRegisterSendsTheValue := by
  refine fun reg value => ⟨fun hreg hvalue => ?_, fun hrange s => exec_operandRange ?_⟩
  · rw [← regWriteFrame_eq value hreg]
    exact busRule_of_oneFrame ((wellFormed_writeRegister reg value).mpr ⟨hreg, hvalue⟩)
      (legalFrame_regWrite value hreg) (fun _ => rfl) finishUnit_eq
  · rw [← Bool.not_eq_true, wellFormed_writeRegister]
    omega

end Sys2Proof.Machine
end

section
/-! The addressed memory codec (spec/42_memory_codec.md R170 to R175): the frames of a span written out, and the rule of
a span command of any of the three variants. -/

namespace Sys2Proof.Machine

variable {i : Instr} {s : State} {result : List (List Byte) → Result}

/-- The rule of a command of one span: its frames, of any variant, fit FRAME_BUF (R111, R171). -/
theorem busRule_of_span {v : MemVariant} {addr : Nat} {ds : List Byte} {finish : List (List Byte) → State → State}
    (hw : i.wellFormed = true)
    (hexec : ∀ s, exec i s = checkStarted i s (busCommand (spanFrames v addr ds) finish s))
    (hfinish : ∀ rxs u, finish rxs u = u.complete (result rxs)) : busRule i (spanFrames v addr ds) result noLabel :=
  busRule_of_checkStarted hw hexec (fun _ htx => length_le_of_legalFrame (legalFrame_span htx)) hfinish

/-- Every frame of a read span carries the placeholder (R171). -/
theorem spanFrames_placeholders (v : MemVariant) (a n : Nat) :
    spanFrames v a (placeholders n) = (List.range n).map fun k => memFrame v (a + k) 0 := by
  simp [spanFrames_eq_map, placeholders]

theorem spanFrames_mainRead (a n : Nat) : spanFrames .mainRead a (placeholders n) = mainReads a n := by
  simp only [spanFrames_placeholders, memFrame_mainRead, mainReads]

theorem spanFrames_otpRead (a n : Nat) : spanFrames .otpRead a (placeholders n) = otpReads a n := by
  simp only [spanFrames_placeholders, memFrame_otpRead, otpReads]

theorem spanFrames_mainWrite (a : Nat) (data : List Nat) :
    spanFrames .mainWrite a (data.map byteOf) = mainWrites a data := by
  have hbyte (k : Nat) : (data.map byteOf).getD k 0 = byteOf (data.getD k 0) := List.getD_map data 0 byteOf
  simp only [spanFrames_eq_map, List.length_map, hbyte, memFrame_mainWrite, mainWrites]

/-- A command whose rule has no frame leaves the claim and the release alone in the trace, and CS_N as it was (R118,
R175). -/
theorem served_without_frames {label : List (List Byte) → Option (List Byte)} (hrule : busRule i [] result label)
    (hs : s.started = true) (hserves : s.busServes 0) :
    ∃ t, exec i s = .next t ∧ t.trace = s.trace ++ [s.claimEvent, .release] ∧ t.csN = s.csN ∧
      t.outcomes = s.outcomes ++ [.ok (result [])] := by
  obtain ⟨hserved, -⟩ := (hrule s).2 hs
  obtain ⟨t, hexec, htrace, houtcomes, -, -, hcsN, -⟩ := hserved hserves
  exact ⟨t, hexec, htrace, hcsN, houtcomes⟩

/-- Settles O39: the rule of a span of main-memory reads, its frames by `spanFrames_mainRead`. -/
theorem readMemoryReturnsTheSpan : Obligations.ReadMemoryReturnsTheSpan := fun addr n => by
  rw [← spanFrames_mainRead]
  exact busRule_of_span rfl (fun _ => rfl) fun _ _ => rfl

/-- Settles O40: the rule of a span of writes, its frames by `spanFrames_mainWrite`; the refusal by
`exec_operandRange`. -/
theorem writeMemorySendsTheSpan : Obligations.WriteMemorySendsTheSpan := by
  refine fun addr data => ⟨fun hdata => ?_, fun ⟨d, hmem, hd⟩ s => exec_operandRange ?_⟩
  · rw [← spanFrames_mainWrite]
    exact busRule_of_span ((wellFormed_writeMemory addr data).mpr hdata) (fun _ => rfl) finishUnit_eq
  · rw [← Bool.not_eq_true, wellFormed_writeMemory]
    exact fun hdata => absurd (hdata d hmem) (Nat.not_lt.mpr hd)

/-- Settles O41: the rule of a span of OTP reads, its frames by `spanFrames_otpRead`. -/
theorem readOtpReturnsTheSpan : Obligations.ReadOtpReturnsTheSpan := fun addr n => by
  rw [← spanFrames_otpRead]
  exact busRule_of_span rfl (fun _ => rfl) fun _ _ => rfl

/-- Settles O42: the three span rules at the empty span, by `served_without_frames`. -/
theorem emptySpansSendNothing : Obligations.EmptySpansSendNothing := by
  intro addr s hs hserves i r hmem
  simp only [List.mem_cons, Prod.mk.injEq, List.not_mem_nil, or_false] at hmem
  obtain ⟨rfl, rfl⟩ | ⟨rfl, rfl⟩ | ⟨rfl, rfl⟩ := hmem
  · exact served_without_frames (readMemoryReturnsTheSpan addr 0) hs hserves
  · exact served_without_frames (readOtpReturnsTheSpan addr 0) hs hserves
  · exact served_without_frames ((writeMemorySendsTheSpan addr []).1 (List.forall_mem_nil _)) hs hserves

/-- Settles O27, by the spec lemma of each variant's frame. -/
theorem memFrameFollowsItsFormulas : Obligations.MemFrameFollowsItsFormulas := fun a d =>
  ⟨memFrame_mainRead a 0, memFrame_mainWrite a d, memFrame_otpRead a 0⟩

end Sys2Proof.Machine
end

section
/-! The byte order of a CRC word (spec/43_label_crc.md R209): byte 0 is least significant. -/

namespace Sys2Proof.Machine

/-- The value of four bytes as a CRC word, most significant byte outermost. -/
theorem toNat_littleEndian32 (b0 b1 b2 b3 : Byte) :
    (littleEndian32 [b0, b1, b2, b3]).toNat =
      b3.toNat * 2 ^ 24 + b2.toNat * 2 ^ 16 + b1.toNat * 2 ^ 8 + b0.toNat := by
  have h0 : (b0.setWidth 32).toNat = b0.toNat := BitVec.toNat_setWidth_of_le (by decide)
  have h01 : (b1.setWidth 32 <<< 8 ||| b0.setWidth 32).toNat = b1.toNat * 2 ^ 8 + b0.toNat := by
    rw [toNat_byte_shiftLeft_or b1 (by decide) (h0 ▸ b0.isLt), h0]
  have h012 : (b2.setWidth 32 <<< 16 ||| (b1.setWidth 32 <<< 8 ||| b0.setWidth 32)).toNat =
      b2.toNat * 2 ^ 16 + (b1.toNat * 2 ^ 8 + b0.toNat) := by
    rw [toNat_byte_shiftLeft_or b2 (by decide) (by omega), h01]
  calc (littleEndian32 [b0, b1, b2, b3]).toNat
      = (b3.setWidth 32 <<< 24 |||
          (b2.setWidth 32 <<< 16 ||| (b1.setWidth 32 <<< 8 ||| b0.setWidth 32))).toNat := by
        simp [littleEndian32, byteAt, BitVec.or_assoc]
    _ = b3.toNat * 2 ^ 24 + (b2.toNat * 2 ^ 16 + (b1.toNat * 2 ^ 8 + b0.toNat)) := by
        rw [toNat_byte_shiftLeft_or b3 (by decide) (by omega), h012]
    _ = b3.toNat * 2 ^ 24 + b2.toNat * 2 ^ 16 + b1.toNat * 2 ^ 8 + b0.toNat := by omega

/-- A CRC word as a number in its container, whatever bytes were received (R209). -/
theorem littleEndian32_eq_ofNat (bs : List Byte) :
    littleEndian32 bs = BitVec.ofNat 32 (littleEndianNumber bs) := by
  have hvalue : (littleEndian32 bs).toNat = littleEndianNumber bs :=
    toNat_littleEndian32 (byteAt bs 0) (byteAt bs 1) (byteAt bs 2) (byteAt bs 3)
  rw [← hvalue, BitVec.ofNat_toNat, BitVec.setWidth_eq]

/-- Settles O31, by joining the bytes from the least significant up. -/
theorem crcWordsAreLittleEndian : Obligations.CrcWordsAreLittleEndian := toNat_littleEndian32

end Sys2Proof.Machine
end

section
/-! The label scan (spec/43_label_crc.md R201): it zero-terminates the bytes it looks at, so what it returns is told by
where the first zero among them stands. -/

namespace Sys2Proof.Machine

theorem beforeZero_eq (bs : List Byte) :
    beforeZero bs = if (0 : Byte) ∈ bs then some (bs.takeWhile fun b => b ≠ 0) else none := by
  induction bs with
  | nil => rfl
  | cons b bs ih =>
    rw [beforeZero, ih]
    by_cases hb : b = 0
    · simp [hb]
    · have hmem : (0 : Byte) ∈ b :: bs ↔ 0 ∈ bs := List.mem_cons.trans (or_iff_right (Ne.symm hb))
      rw [if_neg hb, List.takeWhile_cons_of_pos (by simpa using hb)]
      simp only [hmem]
      split <;> rfl

theorem labelScan_eq_zeroTerminated (buf : List Byte) (n : Nat) :
    labelScan buf n = zeroTerminated (buf.take n) := by
  rw [labelScan, beforeZero_eq, zeroTerminated]
  split <;> rfl

theorem zeroTerminated_append_zero {label : List Byte} (h : ∀ b ∈ label, b ≠ 0) (rest : List Byte) :
    zeroTerminated (label ++ 0 :: rest) = label := by
  rw [zeroTerminated, if_pos (by simp), List.takeWhile_append_of_pos (by simpa using h)]
  simp

theorem zeroTerminated_of_no_zero {bs : List Byte} (h : ∀ b ∈ bs, b ≠ 0) : zeroTerminated bs = [] :=
  if_neg fun hmem => h 0 hmem rfl

/-- The bytes looked at, cut at a zero among them. -/
theorem take_eq_append_zero {buf : List Byte} {n k : Nat} (hkn : k < n) (hk : k < buf.length) (hzero : buf[k] = 0) :
    buf.take n = buf.take k ++ 0 :: (buf.take n).drop (k + 1) := by
  have hlen : k < (buf.take n).length := by rw [List.length_take]; omega
  calc buf.take n
      = (buf.take n).take k ++ (buf.take n).drop k := (List.take_append_drop k _).symm
    _ = buf.take k ++ 0 :: (buf.take n).drop (k + 1) := by
        rw [List.take_take, Nat.min_eq_left hkn.le, List.drop_eq_getElem_cons hlen, List.getElem_take, hzero]

/-- Settles O43: the bytes looked at are cut at their first zero, have none, or are the same. -/
theorem labelScanStopsAtTheFirstZero : Obligations.LabelScanStopsAtTheFirstZero := by
  refine ⟨fun buf n k hkn hk hzero hfirst => ?_, fun buf n hnone => ?_, fun buf buf' n heq => ?_⟩
  · have hlabel : ∀ b ∈ buf.take k, b ≠ 0 := by
      intro b hb
      obtain ⟨j, hj, rfl⟩ := List.mem_take_iff_getElem.mp hb
      exact hfirst j (by omega)
    rw [labelScan_eq_zeroTerminated, take_eq_append_zero hkn hk hzero, zeroTerminated_append_zero hlabel]
  · rw [labelScan_eq_zeroTerminated, zeroTerminated_of_no_zero hnone]
  · rw [labelScan, labelScan, heq]

end Sys2Proof.Machine
end

section
/-! The label reader and its accessors (spec/43_label_crc.md R200 to R207). All seven run `labelCommand`; a command at
an OPEN address meets its rule once its bus command behaves as the rule says (R95). -/

namespace Sys2Proof.Machine

variable {i : Instr} {s : State} {parameter : OpenParams → Option Nat}

/-- What READ_LABEL makes of at most 32 answers: they stand in LABEL_BUF, and the scan sees them and nothing else. -/
theorem finishLabel_eq {rxs : List (List Byte)} (h : rxs.length ≤ 32) (v : State) :
    finishLabel rxs v = (v.withLabel (thirdBytes rxs)).complete (.label (zeroTerminated (thirdBytes rxs))) := by
  have hlen : (thirdBytes rxs).length = rxs.length := List.length_map _
  have hscan : (overwrite v.labelBuf (thirdBytes rxs)).toList.take rxs.length = thirdBytes rxs := by
    rw [overwrite_toList_of_le _ _ (hlen ▸ h), List.take_left' hlen]
  calc finishLabel rxs v
      = (v.withLabel (thirdBytes rxs)).complete
          (.label (labelScan (overwrite v.labelBuf (thirdBytes rxs)).toList rxs.length)) := rfl
    _ = (v.withLabel (thirdBytes rxs)).complete (.label (zeroTerminated (thirdBytes rxs))) := by
        rw [labelScan_eq_zeroTerminated, hscan]

/-- READ_LABEL's part after its checks, whichever command runs it (R200). -/
theorem busBehaviour_of_labelCommand {addr len : Nat} (hexec : exec i s = labelCommand addr len s) :
    s.busBehaviour i (mainReads addr (min len 32))
      (.label (zeroTerminated (thirdBytes (s.answers (mainReads addr (min len 32))))))
      (some (thirdBytes (s.answers (mainReads addr (min len 32))))) := by
  rw [labelCommand, spanFrames_mainRead] at hexec
  have hanswers : (s.answers (mainReads addr (min len 32))).length ≤ 32 := by simp [mainReads]
  refine busBehaviour_of hexec (fun tx htx => ?_) fun v hlabel => ⟨_, finishLabel_eq hanswers v, nofun, ?_⟩
  · rw [← spanFrames_mainRead] at htx
    exact length_le_of_legalFrame (legalFrame_span htx)
  · rintro bytes ⟨rfl⟩
    rw [State.withLabel_labelBuf, hlabel, overwrite_toList_of_le]
    simpa [thirdBytes] using hanswers

/-- Settles O44, by `busBehaviour_of_labelCommand` once BEGIN has run. -/
theorem readLabelReturnsTheLabel : Obligations.ReadLabelReturnsTheLabel := fun addr len _ =>
  ⟨fun hs => checkStarted_notStarted (i := .readLabel addr len) rfl hs,
    fun hs => busBehaviour_of_labelCommand (exec_readLabel hs addr len)⟩

/-- The rule of a bus command at an OPEN address, from its checks and from what it does with a value (R95). -/
theorem openRule_of_checkStarted {txs : Nat → List (List Byte)} {result : List (List Byte) → Result}
    {label : List (List Byte) → Option (List Byte)} {act : Nat → State → Answer} (hw : i.wellFormed = true)
    (hexec : ∀ s, exec i s = checkStarted i s (withParameter i (parameter s.params) s fun a => act a s))
    (hact : ∀ s a, exec i s = act a s →
      s.busBehaviour i (txs a) (result (s.answers (txs a))) (label (s.answers (txs a)))) :
    openRule i parameter txs result label := fun s =>
  ⟨fun hs => (hexec s).trans (checkStarted_notStarted hw hs),
    fun hs hp => execOpen_none hw hs (congrArg some hp) (hexec s),
    fun a hs hp => hact s a (execOpen_some hw hs (hexec s) hp)⟩

/-- The rule of a label accessor whose field fits LABEL_BUF. -/
theorem labelRule_of_checkStarted {len : Nat} (hlen : len ≤ 32) (hw : i.wellFormed = true)
    (hexec : ∀ s, exec i s = checkStarted i s
      (withParameter i (parameter s.params) s fun a => labelCommand a len s)) : labelRule i parameter len := by
  refine openRule_of_checkStarted hw hexec fun s a hact => ?_
  simpa only [Nat.min_eq_left hlen] using busBehaviour_of_labelCommand hact

/-- Settles O45: each accessor runs READ_LABEL's command at its parameter, with its length. -/
theorem labelAccessorsReadTheirFields : Obligations.LabelAccessorsReadTheirFields :=
  ⟨labelRule_of_checkStarted (by decide) rfl fun _ => rfl, labelRule_of_checkStarted (by decide) rfl fun _ => rfl,
    labelRule_of_checkStarted (by decide) rfl fun _ => rfl, labelRule_of_checkStarted (by decide) rfl fun _ => rfl,
    labelRule_of_checkStarted (by decide) rfl fun _ => rfl, labelRule_of_checkStarted (by decide) rfl fun _ => rfl⟩

end Sys2Proof.Machine
end

section
/-! The CRC reads (spec/43_label_crc.md R210, R211): one rule for both, whichever region their span reads. -/

namespace Sys2Proof.Machine

variable {i : Instr}

theorem finishCrc_eq (rxs : List (List Byte)) (v : State) :
    finishCrc rxs v = v.complete (.uint32 (BitVec.ofNat 32 (littleEndianNumber (thirdBytes rxs)))) :=
  congrArg (fun word => v.complete (.uint32 word)) (littleEndian32_eq_ofNat (dataBytes rxs))

/-- The rule of a CRC read: its span's frames fit FRAME_BUF, and its end leaves LABEL_BUF alone. -/
theorem openRule_of_finishCrc {parameter : OpenParams → Option Nat} {v : MemVariant} (hw : i.wellFormed = true)
    (hexec : ∀ s, exec i s = checkStarted i s (withParameter i (parameter s.params) s fun a =>
      busCommand (spanFrames v a (placeholders 4)) finishCrc s)) :
    openRule i parameter (fun a => spanFrames v a (placeholders 4))
      (fun rxs => .uint32 (BitVec.ofNat 32 (littleEndianNumber (thirdBytes rxs)))) noLabel := by
  refine openRule_of_checkStarted hw hexec fun s a hact => ?_
  exact busBehaviour_of hact (fun _ htx => length_le_of_legalFrame (legalFrame_span htx))
    fun u hlabel => ⟨u.labelBuf, finishCrc_eq _ u, fun _ => hlabel, nofun⟩

/-- Settles O47: the rule of a CRC read over main memory, its frames by `spanFrames_mainRead`. -/
theorem readSramCrcReturnsTheWord : Obligations.ReadSramCrcReturnsTheWord := by
  simp only [Obligations.ReadSramCrcReturnsTheWord, ← spanFrames_mainRead]
  exact openRule_of_finishCrc rfl fun _ => rfl

/-- Settles O48: the rule of a CRC read over the OTP, its frames by `spanFrames_otpRead`. -/
theorem readOtpCrcReturnsTheWord : Obligations.ReadOtpCrcReturnsTheWord := by
  simp only [Obligations.ReadOtpCrcReturnsTheWord, ← spanFrames_otpRead]
  exact openRule_of_finishCrc rfl fun _ => rfl

end Sys2Proof.Machine
end

section
/-! SET_FULLSCALE and the 24-bit unpacker (spec/44_unit_converter.md R231, R235). -/

namespace Sys2Proof.Machine

/-- Settles O52: SET_FULLSCALE has no operand out of range. -/
theorem setFullscaleStoresBitExact : Obligations.SetFullscaleStoresBitExact := fun s f =>
  checkRange_wellFormed (i := .setFullscale f) (s := s) rfl

/-- The two shifts of R231 read bits 23:0 as a two's-complement number, whatever stands above them. -/
theorem signedReading_eq_reading24 (raw : Nat) : signedReading raw = reading24 raw := by
  rw [signedReading, signExtend24, reading24, BitVec.toInt_sshiftRight, BitVec.toInt_shiftLeft, BitVec.toNat_ofNat,
    Nat.shiftLeft_eq, Int.shiftRight_eq_div_pow, Int.bmod_def]
  split
  · split
    · omega
    · omega
  · split
    · omega
    · omega

theorem reading24_bounds (raw : Nat) : -8388608 ≤ reading24 raw ∧ reading24 raw ≤ 8388607 := by
  rw [reading24]
  split
  · omega
  · omega

/-- Settles O53: the value by `signedReading_eq_reading24`, the refusal by the range check. -/
theorem signExtendReadsTwentyFourBits : Obligations.SignExtendReadsTwentyFourBits := by
  refine ⟨fun s raw hraw => ?_, fun s raw hraw => exec_operandRange (decide_eq_false hraw.not_gt)⟩
  have hvalue : (signExtend24 raw).toInt = reading24 raw := signedReading_eq_reading24 raw
  obtain ⟨hlow, hhigh⟩ := reading24_bounds raw
  exact ⟨signExtend24 raw, hvalue, hvalue ▸ hlow, hvalue ▸ hhigh,
    checkRange_wellFormed ((wellFormed_signExtend24 raw).mpr hraw)⟩

end Sys2Proof.Machine
end

section
/-! Rounding to binary32 (spec/44_unit_converter.md R230): the significand counted in units of the last place is
nearest among all integers, every finite pattern lies on that grid or below its binade, and the rounded bits pass those
of the greatest finite pattern exactly from 2^128 - 2^103 on. -/

namespace Sys2Proof.Machine

variable {n d : Nat}

/-! ### The rounded quotient among the integers -/

theorem rneDiv_sub_div (n : Nat) (hd : 0 < d) :
    |(rneDiv n d : ℚ) - n / d| ≤ 1 / 2 ∧ (|(rneDiv n d : ℚ) - n / d| = 1 / 2 → rneDiv n d % 2 = 0) := by
  obtain ⟨hup, hlow, heven⟩ := rneDiv_spec n hd
  have hdq : (0 : ℚ) < d := by exact_mod_cast hd
  have hquot : (rneDiv n d : ℚ) - n / d = (2 * d * rneDiv n d - 2 * n) / (2 * d) := by field_simp
  have hup' : (2 * n : ℚ) ≤ 2 * d * rneDiv n d + d := by exact_mod_cast hup
  have hlow' : (2 * d * rneDiv n d : ℚ) ≤ 2 * n + d := by exact_mod_cast hlow
  rw [hquot, abs_div, abs_of_pos (by positivity : (0 : ℚ) < 2 * d)]
  refine ⟨?_, fun htie => heven ?_⟩
  · rw [div_le_iff₀ (by positivity), abs_le]
    constructor <;> linarith
  · rw [div_eq_iff (by positivity)] at htie
    rcases eq_or_eq_neg_of_abs_eq htie with h | h
    · right; exact_mod_cast (by linarith : (2 * d * rneDiv n d : ℚ) = 2 * n + d)
    · left; exact_mod_cast (by linarith : (2 * n : ℚ) = 2 * d * rneDiv n d + d)

/-- An integer within a half of x is a nearest one, and where another is as near it is a half away. -/
theorem nearest_of_abs_sub_le_half {q : Nat} {x : ℚ} (h : |(q : ℚ) - x| ≤ 1 / 2) (k : Nat) :
    |(q : ℚ) - x| ≤ |(k : ℚ) - x| ∧ (|(q : ℚ) - x| = |(k : ℚ) - x| → k ≠ q → |(q : ℚ) - x| = 1 / 2) := by
  rcases eq_or_ne k q with rfl | hne
  · exact ⟨le_rfl, fun _ h => absurd rfl h⟩
  · have hone : (1 : ℚ) ≤ |(k : ℚ) - q| := by
      exact_mod_cast Int.one_le_abs (sub_ne_zero.mpr (Nat.cast_injective.ne hne : (k : Int) ≠ q))
    have htriangle : |(k : ℚ) - q| ≤ |(k : ℚ) - x| + |(q : ℚ) - x| := by
      rw [abs_sub_comm (q : ℚ) x]; exact abs_sub_le _ _ _
    exact ⟨by linarith, fun heq _ => by linarith⟩

/-! ### The significand in units of the last place -/

/-- The significand of n/d rounded to binary32, in units of the last place. -/
def roundedSig (n d : Nat) : Nat :=
  rneDiv (n * 2 ^ (-roundingUnit n d).toNat) (d * 2 ^ (roundingUnit n d).toNat)

theorem roundedBits_eq (n d : Nat) :
    roundedBits n d = (roundingUnit n d + 149).toNat * 8388608 + roundedSig n d := rfl

/-- An integer power of two as the quotient of natural powers that the model computes with. -/
theorem two_zpow_eq_div (e : Int) : (2 : ℚ) ^ e = 2 ^ e.toNat / 2 ^ (-e).toNat := by
  rw [← zpow_natCast, ← zpow_natCast, ← zpow_sub₀ two_ne_zero]
  congr 1
  omega

/-- n/d in units of the last place. -/
def inUnits (n d : Nat) : ℚ := (n : ℚ) / d / 2 ^ roundingUnit n d

theorem inUnits_mul (n d : Nat) : inUnits n d * 2 ^ roundingUnit n d = (n : ℚ) / d :=
  div_mul_cancel₀ _ (by positivity)

theorem roundedSig_sub_inUnits (n : Nat) (hd : 0 < d) :
    |(roundedSig n d : ℚ) - inUnits n d| ≤ 1 / 2 ∧
      (|(roundedSig n d : ℚ) - inUnits n d| = 1 / 2 → roundedSig n d % 2 = 0) := by
  have hunits : inUnits n d =
      ((n * 2 ^ (-roundingUnit n d).toNat : Nat) : ℚ) / ((d * 2 ^ (roundingUnit n d).toNat : Nat) : ℚ) := by
    rw [inUnits, two_zpow_eq_div]
    push_cast
    field_simp
  rw [hunits]
  exact rneDiv_sub_div _ (by positivity)

theorem neg149_le_roundingUnit (n d : Nat) : -149 ≤ roundingUnit n d := le_max_right _ _

/-- n/d has at most 24 significant bits above the last place kept. -/
theorem div_lt_two_zpow_roundingUnit (hn : 0 < n) (hd : 0 < d) : (n : ℚ) / d < 2 ^ (roundingUnit n d + 24) :=
  (floorLog2_spec hn hd).2.trans_le
    (zpow_le_zpow_right₀ one_le_two (by have := le_max_left (floorLog2 n d - 23) (-149); rw [roundingUnit]; omega))

/-- Above the subnormal range n/d has all 24 of them. -/
theorem two_zpow_roundingUnit_le_div (hn : 0 < n) (hd : 0 < d) (hu : -149 < roundingUnit n d) :
    (2 : ℚ) ^ (roundingUnit n d + 23) ≤ (n : ℚ) / d := by
  have hlog : roundingUnit n d + 23 = floorLog2 n d := by rw [roundingUnit] at hu ⊢; omega
  exact hlog ▸ (floorLog2_spec hn hd).1

theorem inUnits_lt (hn : 0 < n) (hd : 0 < d) : inUnits n d < 16777216 := by
  rw [inUnits, div_lt_iff₀ (by positivity)]
  refine (div_lt_two_zpow_roundingUnit hn hd).trans_eq ?_
  rw [zpow_add₀ two_ne_zero, mul_comm]
  norm_num

theorem le_inUnits (hn : 0 < n) (hd : 0 < d) (hu : -149 < roundingUnit n d) : 8388608 ≤ inUnits n d := by
  rw [inUnits, le_div_iff₀ (by positivity)]
  refine Eq.trans_le ?_ (two_zpow_roundingUnit_le_div hn hd hu)
  rw [zpow_add₀ two_ne_zero, mul_comm]
  norm_num

theorem roundedSig_le (hn : 0 < n) (hd : 0 < d) : roundedSig n d ≤ 16777216 := by
  obtain ⟨-, hhigh⟩ := abs_le.mp (roundedSig_sub_inUnits n hd).1
  have hlt : (roundedSig n d : ℚ) < 16777217 := by linarith [inUnits_lt hn hd]
  exact Nat.lt_succ_iff.mp (by exact_mod_cast hlt)

theorem le_roundedSig (hn : 0 < n) (hd : 0 < d) (hu : -149 < roundingUnit n d) : 8388608 ≤ roundedSig n d := by
  obtain ⟨hlow, -⟩ := abs_le.mp (roundedSig_sub_inUnits n hd).1
  have hlt : (8388607 : ℚ) < roundedSig n d := by linarith [le_inUnits hn hd hu]
  exact_mod_cast hlt

/-! ### Overflow -/

/-- At the greatest unit of a finite pattern the significand stays below 2^24 exactly up to the tie. -/
theorem roundedSig_lt_iff (n : Nat) (hd : 0 < d) : roundedSig n d < 16777216 ↔ inUnits n d < 16777216 - 1 / 2 := by
  obtain ⟨hnear, heven⟩ := roundedSig_sub_inUnits n hd
  obtain ⟨hlow, hhigh⟩ := abs_le.mp hnear
  constructor
  · intro hlt
    have hle : (roundedSig n d : ℚ) ≤ 16777215 := by exact_mod_cast Nat.le_pred_of_lt hlt
    refine lt_of_le_of_ne (by linarith) fun heq => ?_
    have hsig : (roundedSig n d : ℚ) = 16777215 := by linarith
    have hodd : roundedSig n d = 16777215 := by exact_mod_cast hsig
    have := heven (by rw [hsig, heq]; norm_num [abs_div])
    omega
  · intro hlt
    exact_mod_cast (by linarith : (roundedSig n d : ℚ) < 16777216)

/-- Rounding overflows exactly from 2^128 - 2^103 on (R230). -/
theorem roundedBits_lt_iff (hn : 0 < n) (hd : 0 < d) :
    roundedBits n d < f32InfBits ↔ (n : ℚ) / d < 2 ^ 128 - 2 ^ 103 := by
  have hinf : f32InfBits = 2139095040 := rfl
  rw [roundedBits_eq]
  rcases lt_trichotomy (roundingUnit n d) 104 with hu | hu | hu
  · have hsig := roundedSig_le hn hd
    have hsmall : (n : ℚ) / d < 2 ^ (127 : Int) :=
      (div_lt_two_zpow_roundingUnit hn hd).trans_le (zpow_le_zpow_right₀ one_le_two (by omega))
    exact iff_of_true (by omega) (hsmall.trans_le (by norm_num))
  · have hiff := roundedSig_lt_iff n hd
    have hbits : (roundingUnit n d + 149).toNat * 8388608 + roundedSig n d < f32InfBits ↔
        roundedSig n d < 16777216 := by rw [hu]; omega
    rw [hbits, hiff, ← inUnits_mul, hu, ← lt_div_iff₀ (by positivity)]
    norm_num
  · have hsig := le_roundedSig hn hd (by omega)
    have hlarge : (2 : ℚ) ^ (128 : Int) ≤ (n : ℚ) / d :=
      (zpow_le_zpow_right₀ one_le_two (by omega)).trans (two_zpow_roundingUnit_le_div hn hd (by omega))
    exact iff_of_false (by omega) (not_lt.mpr (le_trans (by norm_num) hlarge))

/-! ### The patterns on the grid of the last place -/

theorem f32Sig_lt (y : F32) : f32Sig y < 16777216 := by
  have hfrac : f32Frac y < 8388608 := Nat.mod_lt _ (by decide)
  rw [f32Sig]
  split
  · omega
  · omega

theorem neg149_le_f32Scale (y : F32) : -149 ≤ f32Scale y := by
  rw [f32Scale]
  split
  · omega
  · omega

/-- A multiple of a power of two is one of every lower power. -/
theorem mul_two_zpow_eq (m : Nat) {c u : Int} (h : u ≤ c) :
    (m : ℚ) * 2 ^ c = ((m * 2 ^ (c - u).toNat : Nat) : ℚ) * 2 ^ u := by
  push_cast
  rw [← zpow_natCast, Int.toNat_of_nonneg (by omega), mul_assoc, ← zpow_add₀ two_ne_zero, sub_add_cancel]

/-- A pattern whose own unit is at least 2^u is a multiple of 2^u. -/
theorem f32Magnitude_eq_mul {y : F32} {u : Int} (h : u ≤ f32Scale y) :
    ∃ k : Nat, f32Magnitude y = (k : ℚ) * 2 ^ u := ⟨_, mul_two_zpow_eq (f32Sig y) h⟩

/-- A pattern whose own unit is below 2^u lies below 2^23 of them. -/
theorem f32Magnitude_lt {y : F32} {u : Int} (h : f32Scale y < u) : f32Magnitude y < 8388608 * 2 ^ u := by
  have hsig : (f32Sig y : ℚ) < 16777216 := by exact_mod_cast f32Sig_lt y
  calc f32Magnitude y < 16777216 * 2 ^ f32Scale y := mul_lt_mul_of_pos_right hsig (by positivity)
    _ ≤ 16777216 * 2 ^ (u - 1) := by gcongr; exacts [one_le_two, by omega]
    _ = 8388608 * 2 ^ u := by rw [zpow_sub_one₀ two_ne_zero]; ring

/-- What the rounded significand stands for is nearest to n/d among the multiples of the last place. -/
theorem roundedSig_nearest_multiple (n : Nat) (hd : 0 < d) (k : Nat) :
    |(roundedSig n d : ℚ) * 2 ^ roundingUnit n d - n / d| ≤ |(k : ℚ) * 2 ^ roundingUnit n d - n / d| ∧
      (|(roundedSig n d : ℚ) * 2 ^ roundingUnit n d - n / d| = |(k : ℚ) * 2 ^ roundingUnit n d - n / d| →
        k ≠ roundedSig n d → roundedSig n d % 2 = 0) := by
  have hunit : (0 : ℚ) < 2 ^ roundingUnit n d := by positivity
  have hscale : ∀ m : Nat, |(m : ℚ) * 2 ^ roundingUnit n d - n / d| =
      |(m : ℚ) - inUnits n d| * 2 ^ roundingUnit n d := fun m => by
    rw [← inUnits_mul, ← sub_mul, abs_mul, abs_of_pos hunit]
  obtain ⟨hhalf, heven⟩ := roundedSig_sub_inUnits n hd
  obtain ⟨hnear, htie⟩ := nearest_of_abs_sub_le_half hhalf k
  rw [hscale, hscale]
  exact ⟨mul_le_mul_of_nonneg_right hnear hunit.le,
    fun heq hne => heven (htie (mul_right_cancel₀ hunit.ne' heq) hne)⟩

/-- And it is nearest among the patterns: one off the grid lies below 2^23 units, which is itself no nearer. -/
theorem roundedSig_nearest (hn : 0 < n) (hd : 0 < d) (y : F32) :
    |(roundedSig n d : ℚ) * 2 ^ roundingUnit n d - n / d| ≤ |f32Magnitude y - n / d| ∧
      (|(roundedSig n d : ℚ) * 2 ^ roundingUnit n d - n / d| = |f32Magnitude y - n / d| →
        f32Magnitude y ≠ roundedSig n d * 2 ^ roundingUnit n d → roundedSig n d % 2 = 0) := by
  rcases le_or_gt (roundingUnit n d) (f32Scale y) with hgrid | hbelow
  · obtain ⟨k, hk⟩ := f32Magnitude_eq_mul hgrid
    obtain ⟨hnear, heven⟩ := roundedSig_nearest_multiple n hd k
    rw [hk]
    exact ⟨hnear, fun heq hne => heven heq fun h => hne (by rw [h])⟩
  · have hu : -149 < roundingUnit n d := (neg149_le_f32Scale y).trans_lt hbelow
    have hlow := f32Magnitude_lt hbelow
    have hbinade : (8388608 : ℚ) * 2 ^ roundingUnit n d ≤ n / d := by
      rw [← inUnits_mul]
      exact mul_le_mul_of_nonneg_right (le_inUnits hn hd hu) (by positivity)
    have hnear := (roundedSig_nearest_multiple n hd 8388608).1
    push_cast at hnear
    rw [abs_of_nonpos (sub_nonpos.mpr hbinade)] at hnear
    have hfar : |f32Magnitude y - n / d| = n / d - f32Magnitude y := by
      rw [abs_of_nonpos (by linarith), neg_sub]
    rw [hfar]
    exact ⟨by linarith, fun heq => absurd heq (by linarith)⟩

/-! ### RNE32 -/

theorem rne32_zero (neg : Bool) (d : Nat) : rne32 neg 0 d = f32Of neg 0 := if_pos rfl

theorem rne32_of_pos (neg : Bool) (hn : 0 < n) : rne32 neg n d = f32Of neg (min (roundedBits n d) f32InfBits) :=
  if_neg hn.ne'

theorem f32Neg_rne32 (neg : Bool) (n d : Nat) : f32Neg (rne32 neg n d) = neg := by
  rcases Nat.eq_zero_or_pos n with rfl | hn
  · rw [rne32_zero, f32Neg_f32Of neg (by decide)]
  · rw [rne32_of_pos neg hn, f32Neg_f32Of neg ((min_le_right _ _).trans_lt (by decide))]

theorem rne32_overflow (neg : Bool) (hn : 0 < n) (hd : 0 < d) (h : 2 ^ 128 - 2 ^ 103 ≤ (n : ℚ) / d) :
    rne32 neg n d = f32Of neg f32InfBits := by
  rw [rne32_of_pos neg hn, min_eq_right (not_lt.mp fun hlt => absurd ((roundedBits_lt_iff hn hd).mp hlt) h.not_gt)]

/-- Below the overflow RNE32 is finite and stands for the rounded significand in units of the last place. -/
theorem rne32_finite (neg : Bool) (hn : 0 < n) (hd : 0 < d) (h : (n : ℚ) / d < 2 ^ 128 - 2 ^ 103) :
    f32IsFinite (rne32 neg n d) = true ∧
      f32Magnitude (rne32 neg n d) = roundedSig n d * 2 ^ roundingUnit n d ∧
      (roundedSig n d % 2 = 0 → f32Sig (rne32 neg n d) % 2 = 0) := by
  have hbits := (roundedBits_lt_iff hn hd).mpr h
  have hexp : (((roundingUnit n d + 149).toNat : Nat) : Int) - 149 = roundingUnit n d := by
    have := neg149_le_roundingUnit n d
    omega
  obtain ⟨hmag, heven⟩ := f32Magnitude_of_bits neg (roundingUnit n d + 149).toNat (roundedSig n d)
    (roundedSig_le hn hd) (fun hpos => le_roundedSig hn hd (by omega)) hbits
  rw [hexp] at hmag
  rw [rne32_of_pos neg hn, min_eq_left hbits.le]
  exact ⟨f32IsFinite_f32Of neg hbits, hmag, heven⟩

theorem f32Magnitude_zero (neg : Bool) : f32Magnitude (f32Of neg 0) = 0 := by
  simpa using (f32Magnitude_of_bits neg 0 0 (by decide) (by decide) (by decide)).1

theorem isRounded_zero (neg : Bool) : isRounded (f32Of neg 0) neg 0 := by
  refine ⟨f32Neg_f32Of neg (by decide), fun h => absurd h (by norm_num), fun _ =>
    ⟨f32IsFinite_f32Of neg (by decide), fun y _ => ?_⟩⟩
  rw [f32Magnitude_zero, sub_zero, abs_zero, sub_zero]
  exact ⟨abs_nonneg _, fun heq hne => absurd (abs_eq_zero.mp heq.symm) hne⟩

theorem isRounded_rne32 (neg : Bool) (n : Nat) (hd : 0 < d) : isRounded (rne32 neg n d) neg ((n : ℚ) / d) := by
  rcases Nat.eq_zero_or_pos n with rfl | hn
  · rw [rne32_zero, Nat.cast_zero, zero_div]
    exact isRounded_zero neg
  · refine ⟨f32Neg_rne32 neg n d, fun h => ?_, fun h => ?_⟩
    · rw [rne32_overflow neg hn hd h]
      exact f32IsInf_f32Of neg
    · obtain ⟨hfinite, hmag, hsig⟩ := rne32_finite neg hn hd h
      refine ⟨hfinite, fun y _ => ?_⟩
      obtain ⟨hnear, heven⟩ := roundedSig_nearest hn hd y
      rw [hmag]
      exact ⟨hnear, fun heq hne => hsig (heven heq hne)⟩

/-- Settles O57, by `isRounded_rne32`. -/
theorem roundingIsToNearestEven : Obligations.RoundingIsToNearestEven := fun neg n _ hd => isRounded_rne32 neg n hd

end Sys2Proof.Machine
end

section
/-! Multiplication (spec/44_unit_converter.md R236): one equation for each branch of `f32Mul`, the product of two finite
factors by the rounding of their exact product, and the NaN it answers. -/

namespace Sys2Proof.Machine

variable {a b x : F32}

/-! ### The classes of patterns -/

theorem not_f32IsNaN_of_f32IsFinite (h : f32IsFinite x = true) : f32IsNaN x = false := by
  simp_all [f32IsFinite, f32IsNaN]

theorem not_f32IsInf_of_f32IsFinite (h : f32IsFinite x = true) : f32IsInf x = false := by
  simp_all [f32IsFinite, f32IsInf]

theorem not_f32IsNaN_of_f32IsInf (h : f32IsInf x = true) : f32IsNaN x = false := by
  simp_all [f32IsInf, f32IsNaN]

theorem not_f32IsZero_of_f32IsInf (h : f32IsInf x = true) : f32IsZero x = false := by
  simp_all [f32IsInf, f32IsZero]

theorem f32IsFinite_of_f32IsZero (h : f32IsZero x = true) : f32IsFinite x = true := by
  simp_all [f32IsZero, f32IsFinite]

theorem f32Sig_of_f32IsZero (h : f32IsZero x = true) : f32Sig x = 0 := by
  simp_all [f32IsZero, f32Sig]

theorem f32IsZero_f32Of (neg : Bool) : f32IsZero (f32Of neg 0) = true := by cases neg <;> decide

/-! ### The branches of `f32Mul` -/

theorem f32Mul_of_f32IsNaN (nan : F32) (h : f32IsNaN a = true ∨ f32IsNaN b = true) : f32Mul nan a b = nan :=
  if_pos (by simpa using h)

theorem f32Mul_zero_inf (nan : F32) (hb : f32IsInf b = true) (ha : f32IsZero a = true) : f32Mul nan a b = nan := by
  simp [f32Mul, hb, ha]

theorem f32Mul_inf (nan : F32) (hb : f32IsInf b = true) (ha : f32IsFinite a = true) (hzero : f32IsZero a = false) :
    f32Mul nan a b = f32Of (f32Neg a != f32Neg b) f32InfBits := by
  simp [f32Mul, hb, hzero, not_f32IsNaN_of_f32IsFinite ha, not_f32IsNaN_of_f32IsInf hb, not_f32IsZero_of_f32IsInf hb]

theorem f32Mul_finite (nan : F32) (ha : f32IsFinite a = true) (hb : f32IsFinite b = true) :
    f32Mul nan a b = rne32Scaled (f32Neg a != f32Neg b) (f32Sig a * f32Sig b) (f32Scale a + f32Scale b) := by
  simp [f32Mul, not_f32IsNaN_of_f32IsFinite ha, not_f32IsNaN_of_f32IsFinite hb, not_f32IsInf_of_f32IsFinite ha,
    not_f32IsInf_of_f32IsFinite hb]

/-- A finite factor times a zero is the zero of the product's sign. -/
theorem f32Mul_zero (nan : F32) (ha : f32IsFinite a = true) (hb : f32IsZero b = true) :
    f32Mul nan a b = f32Of (f32Neg a != f32Neg b) 0 := by
  rw [f32Mul_finite nan ha (f32IsFinite_of_f32IsZero hb), f32Sig_of_f32IsZero hb, rne32Scaled, Nat.mul_zero,
    Nat.zero_mul, rne32_zero]

theorem isRounded_rne32Scaled (neg : Bool) (m : Nat) (e : Int) : isRounded (rne32Scaled neg m e) neg (m * 2 ^ e) := by
  have hvalue : (m : ℚ) * 2 ^ e = ((m * 2 ^ e.toNat : Nat) : ℚ) / ((2 ^ (-e).toNat : Nat) : ℚ) := by
    rw [two_zpow_eq_div]
    push_cast
    ring
  rw [hvalue]
  exact isRounded_rne32 neg _ (by positivity)

/-- The product of two finite factors is their exact product, rounded once. -/
theorem isRounded_f32Mul (nan : F32) (ha : f32IsFinite a = true) (hb : f32IsFinite b = true) :
    isRounded (f32Mul nan a b) (f32Neg a != f32Neg b) (f32Magnitude a * f32Magnitude b) := by
  have hproduct : f32Magnitude a * f32Magnitude b =
      ((f32Sig a * f32Sig b : Nat) : ℚ) * 2 ^ (f32Scale a + f32Scale b) := by
    rw [f32Magnitude, f32Magnitude, zpow_add₀ two_ne_zero]
    push_cast
    ring
  rw [f32Mul_finite nan ha hb, hproduct]
  exact isRounded_rne32Scaled _ _ _

/-! ### The reading as a factor -/

/-- A value of at most 24 significant bits within the exponent range is rounded to itself. -/
theorem rne32_exact {n d m : Nat} {c : Int} (neg : Bool) (hd : 0 < d) (hm : m < 16777216) (hlow : -149 ≤ c)
    (hhigh : c ≤ 104) (h : (n : ℚ) / d = m * 2 ^ c) :
    f32IsFinite (rne32 neg n d) = true ∧ f32Magnitude (rne32 neg n d) = n / d := by
  rcases Nat.eq_zero_or_pos n with rfl | hn
  · rw [rne32_zero, f32Magnitude_zero, Nat.cast_zero, zero_div]
    exact ⟨f32IsFinite_f32Of neg (by decide), rfl⟩
  have hm' : (m : ℚ) ≤ 16777215 := by exact_mod_cast Nat.le_pred_of_lt hm
  have hlimit : (n : ℚ) / d < 2 ^ 128 - 2 ^ 103 := by
    calc (n : ℚ) / d = m * 2 ^ c := h
      _ ≤ 16777215 * 2 ^ (104 : Int) := by gcongr; exact one_le_two
      _ < 2 ^ 128 - 2 ^ 103 := by norm_num
  have hbits : (n : ℚ) / d < 2 ^ (c + 24) := by
    rw [h, zpow_add₀ two_ne_zero, mul_comm]
    exact mul_lt_mul_of_pos_left (hm'.trans_lt (by norm_num)) (by positivity)
  have hlog : floorLog2 n d < c + 24 :=
    (zpow_lt_zpow_iff_right₀ one_lt_two).mp ((floorLog2_spec hn hd).1.trans_lt hbits)
  have hunit : roundingUnit n d ≤ c := by rw [roundingUnit]; omega
  obtain ⟨hfinite, hmag, -⟩ := rne32_finite neg hn hd hlimit
  have hnear := (roundedSig_nearest_multiple n hd (m * 2 ^ (c - roundingUnit n d).toNat)).1
  rw [← mul_two_zpow_eq m hunit, ← h, sub_self, abs_zero] at hnear
  exact ⟨hfinite, hmag.trans (sub_eq_zero.mp (abs_nonpos_iff.mp hnear))⟩

theorem natAbs_reading24_le (raw : Nat) : (reading24 raw).natAbs ≤ 8388608 := by
  have := reading24_bounds raw
  omega

theorem f32Neg_scaledReading (raw : Nat) : f32Neg (scaledReading raw) = decide (reading24 raw < 0) := by
  rw [scaledReading, f32OfIntScaled, f32Neg_rne32, signedReading_eq_reading24]

/-- The division of the reading by 2^21 is exact (R237). -/
theorem scaledReading_exact (raw : Nat) : f32IsFinite (scaledReading raw) = true ∧
    f32Magnitude (scaledReading raw) = ((reading24 raw).natAbs : ℚ) / 2 ^ 21 := by
  have hdiv : ((reading24 raw).natAbs : ℚ) / ((2 ^ 21 : Nat) : ℚ) = (reading24 raw).natAbs * 2 ^ (-21 : Int) := by
    norm_num [div_eq_mul_inv]
  have h := rne32_exact (decide (reading24 raw < 0)) (by decide)
    ((natAbs_reading24_le raw).trans_lt (by decide)) (by decide) (by decide) hdiv
  rw [scaledReading, f32OfIntScaled, signedReading_eq_reading24]
  exact_mod_cast h

/-- A finite full-scale: the reading times it, over 2^21, rounded once (R232). -/
theorem isRounded_pressureOf (nan : F32) (raw : Nat) {f : F32} (hf : f32IsFinite f = true) :
    isRounded (pressureOf nan raw f) (decide (reading24 raw < 0) != f32Neg f)
      (((reading24 raw).natAbs : ℚ) * f32Magnitude f / 2 ^ 21) := by
  obtain ⟨hfinite, hmag⟩ := scaledReading_exact raw
  have h := isRounded_f32Mul nan hfinite hf
  rwa [f32Neg_scaledReading, hmag, div_mul_eq_mul_div] at h

theorem f32Magnitude_nonneg (y : F32) : 0 ≤ f32Magnitude y := by rw [f32Magnitude]; positivity

/-- A finite full-scale below 2^126 - 2^101 gives no infinity: no reading exceeds 4 (R238). -/
theorem le_f32Magnitude_of_f32IsInf_pressureOf {nan f : F32} {raw : Nat} (hf : f32IsFinite f = true)
    (hinf : f32IsInf (pressureOf nan raw f) = true) : 2 ^ 126 - 2 ^ 101 ≤ f32Magnitude f := by
  by_contra hlt
  obtain ⟨-, -, hbelow⟩ := isRounded_pressureOf nan raw hf
  have hs : ((reading24 raw).natAbs : ℚ) ≤ 8388608 := by exact_mod_cast natAbs_reading24_le raw
  have hproduct := mul_le_mul_of_nonneg_right hs (f32Magnitude_nonneg f)
  have hfinite := (hbelow (by rw [div_lt_iff₀ (by positivity)]; linarith)).1
  exact absurd hinf (by simp [not_f32IsInf_of_f32IsFinite hfinite])

/-! ### NAN_RESULT -/

theorem f32IsNaN_iff (x : F32) : f32IsNaN x = true ↔ f32Exp x = 255 ∧ f32Frac x ≠ 0 := by simp [f32IsNaN]

/-- Under an exponent of all ones every fraction but zero makes a NaN. -/
theorem f32IsNaN_f32Of (neg : Bool) {frac : Nat} (hpos : 0 < frac) (hlt : frac < 8388608) :
    f32IsNaN (f32Of neg (f32InfBits + frac)) = true := by
  have hinf : f32InfBits = 2139095040 := rfl
  rw [f32IsNaN_iff, f32Exp_f32Of neg (by omega), f32Frac_f32Of neg (by omega)]
  omega

theorem f32IsNaN_nanOf (w : F32) : f32IsNaN (nanOf w) = true := by
  have hfrac : f32Frac w < 8388608 := Nat.mod_lt _ (by decide)
  rw [nanOf]
  split
  · exact f32IsNaN_f32Of _ (by decide) (by decide)
  · exact f32IsNaN_f32Of _ (by omega) hfrac

/-- A pattern is put together again from its three fields. -/
theorem f32Of_fields (x : F32) : f32Of (f32Neg x) (f32Exp x * 8388608 + f32Frac x) = x := by
  have hexp : f32Exp x = x.toNat / 8388608 % 256 := by rw [f32Exp, Nat.shiftRight_eq_div_pow]
  have hfrac : f32Frac x = x.toNat % 8388608 := rfl
  have hneg : f32Neg x = decide (x.toNat / 2 ^ 31 % 2 = 1) := Nat.testBit_eq_decide_div_mod_eq
  have hlt := x.isLt
  apply BitVec.eq_of_toNat_eq
  simp only [toNat_f32Of _ (show f32Exp x * 8388608 + f32Frac x < 2147483648 by omega), hneg, decide_eq_true_eq]
  split
  · omega
  · omega

theorem nanOf_of_f32IsNaN (h : f32IsNaN x = true) : nanOf x = x := by
  obtain ⟨hexp, hfrac⟩ := (f32IsNaN_iff x).mp h
  have hfields := f32Of_fields x
  rw [hexp] at hfields
  rw [nanOf, if_neg hfrac]
  exact hfields

/-- Settles O58: one equation for each branch of `f32Mul`, the sign and the range of the reading, and NAN_RESULT. -/
theorem multiplicationFollowsIeee : Obligations.MultiplicationFollowsIeee := by
  refine ⟨fun nan a b => ⟨f32Mul_of_f32IsNaN nan, f32Mul_zero_inf nan, fun hb ha hzero => ?_, fun hb ha => ?_,
    isRounded_f32Mul nan⟩, f32Neg_scaledReading, fun _ _ _ => le_f32Magnitude_of_f32IsInf_pressureOf,
    f32IsNaN_nanOf, fun _ => nanOf_of_f32IsNaN⟩
  · rw [f32Mul_inf nan hb ha hzero]
    exact ⟨f32IsInf_f32Of _, f32Neg_f32Of _ (by decide)⟩
  · rw [f32Mul_zero nan ha hb]
    exact ⟨f32IsZero_f32Of _, f32Neg_f32Of _ (by decide)⟩

end Sys2Proof.Machine
end

section
/-! The unit converter (spec/44_unit_converter.md R232, R233): what the conversion returns for each kind of full-scale,
and the two commands that answer it. -/

namespace Sys2Proof.Machine

theorem f32IsZero_scaledReading {raw : Nat} (h : reading24 raw = 0) : f32IsZero (scaledReading raw) = true := by
  rw [scaledReading, f32OfIntScaled, signedReading_eq_reading24, h, Int.natAbs_zero, rne32_zero]
  exact f32IsZero_f32Of _

theorem not_f32IsZero_scaledReading {raw : Nat} (h : reading24 raw ≠ 0) : f32IsZero (scaledReading raw) = false := by
  refine Bool.eq_false_iff.mpr fun hzero => ?_
  have hmag := (scaledReading_exact raw).2
  rw [f32Magnitude, f32Sig_of_f32IsZero hzero, Nat.cast_zero, zero_mul] at hmag
  have hpos : (0 : ℚ) < (reading24 raw).natAbs := by exact_mod_cast Int.natAbs_pos.mpr h
  exact absurd hmag (by positivity)

/-- The conversion with any NaN as NAN_RESULT: a NaN full-scale, an infinite one, a finite one (R232, R236). -/
theorem isConverted_pressureOf {nan : F32} (hnan : f32IsNaN nan = true) (raw : Nat) (f : F32) :
    isConverted (pressureOf nan raw f) (reading24 raw) f := by
  refine ⟨fun hf => ?_, fun hf hs => ?_, fun hf hs => ?_, isRounded_pressureOf nan raw⟩
  · rwa [pressureOf, f32Mul_of_f32IsNaN nan (.inr hf)]
  · rwa [pressureOf, f32Mul_zero_inf nan hf (f32IsZero_scaledReading hs)]
  · rw [pressureOf, f32Mul_inf nan hf (scaledReading_exact raw).1 (not_f32IsZero_scaledReading hs),
      f32Neg_scaledReading]
    exact ⟨f32IsInf_f32Of _, f32Neg_f32Of _ (by decide)⟩

theorem exec_convertPressure {raw : Nat} (hraw : raw < 2 ^ 32) (f : F32) (s : State) :
    exec (.convertPressure raw f) s = .next (s.drawn.complete (.binary32 (pressureOf s.nanNow raw f))) :=
  checkRange_wellFormed ((wellFormed_convertPressure raw f).mpr hraw)

theorem State.answeredTo_drawn_complete (s : State) (r : Result) : s.answeredTo (s.drawn.complete r) r :=
  ⟨s.env.draws + 1, rfl⟩

/-- Settles O54, from `isConverted_pressureOf` with the NaN drawn. -/
theorem convertPressureScalesByFullscale : Obligations.ConvertPressureScalesByFullscale :=
  ⟨fun s raw f hraw => ⟨_, _, exec_convertPressure hraw f s, s.answeredTo_drawn_complete _,
    isConverted_pressureOf (f32IsNaN_nanOf _) raw f⟩,
    fun _ _ _ hraw => exec_operandRange (decide_eq_false hraw.not_gt)⟩

/-- Settles O55: in range it is CONVERT_PRESSURE at the stored full-scale. -/
theorem convertPressureStoredUsesFullscale : Obligations.ConvertPressureStoredUsesFullscale := by
  refine ⟨fun s raw hraw => ?_, fun _ _ hraw => exec_operandRange (decide_eq_false hraw.not_gt)⟩
  rw [exec_convertPressureStored hraw]
  exact convertPressureScalesByFullscale.1 s raw s.fullscale hraw

end Sys2Proof.Machine
end

section
/-! The control lines (spec/45_control_lines.md R260 to R262) and the commands without frames: BEGIN and
IS_DATA_AVAILABLE exactly, and the bus left alone by every command that does not use it. -/

namespace Sys2Proof.Machine

/-- Settles O17, from `exec_other`: BEGIN has its one event and CS_N high, any other command leaves CS_N alone and
adds at most a sample of the line. -/
theorem otherCommandsLeaveTheBusAlone : Obligations.OtherCommandsLeaveTheBusAlone := by
  intro i s hb ha
  obtain ⟨t, r, env, events, ht, heq, -, hbegin, hother, -⟩ := exec_other hb ha
  have htrace : t.trace = s.trace ++ events := by rw [heq]
  refine ⟨t, r, ht, by rw [heq], by rw [heq], by rw [heq], by rw [heq], by rw [heq], by rw [heq], by rw [heq],
    fun hi => (hother hi).1, fun hi => (hbegin hi).1, ?_⟩
  rw [htrace]
  by_cases hi : i = .beginLines
  · obtain ⟨-, -, rfl⟩ := hbegin hi
    exact .inr (.inl rfl)
  · obtain ⟨-, -, rfl | ⟨level, rfl⟩⟩ := hother hi
    · exact .inl (List.append_nil _)
    · exact .inr (.inr ⟨level, rfl⟩)

/-- Settles O50: the state BEGIN completes in, with its writes written out. -/
theorem beginConfiguresTheLines : Obligations.BeginConfiguresTheLines := exec_begin

/-- The line is active low (R261). -/
theorem dataReady_eq (level : Level) : dataReady level = decide (level = .low) := by
  cases level <;> rfl

theorem exec_isDataAvailable {s : State} (hs : s.started = true) :
    exec .isDataAvailable s = .next (s.sampled.complete (.bool (decide (s.drdyNow = .low)))) := by
  rw [← dataReady_eq]
  exact checkStarted_started (i := .isDataAvailable) rfl hs

/-- Settles O51: one sample of the line in a started state, and the second check of R95 before BEGIN. -/
theorem isDataAvailableSamplesTheLine : Obligations.IsDataAvailableSamplesTheLine := fun _ =>
  ⟨exec_isDataAvailable, exec_notStarted rfl rfl⟩

end Sys2Proof.Machine
end

section
/-! The failures of the bus layer (spec/60_exceptions.md R281): whichever call of a bus command fails, the command ends
there with FAULT set, and FAULT ends the run. -/

namespace Sys2Proof.Machine

variable {s t : State} {txs : List (List Byte)} {finish : List (List Byte) → State → State}

theorem State.failedTo_claimAsked_busFailure (s : State) : s.failedTo s.claimAsked.busFailure [] := by
  simp [State.failedTo, State.sameConfig]

/-- The call after `k` completed ones is the k-th frame, or the release once every frame was sent; where it fails, the
claim and the first `k` frames are the events of the command. -/
theorem busCommand_call_fails {k : Nat} (hk : k ≤ txs.length) (hgranted : s.claimNow = .granted)
    (hcalls : s.callsComplete k) (hfails : s.callAt k = .fails) :
    ∃ t, busCommand txs finish s = .next t ∧
      s.failedTo t (s.claimEvent :: frameEvents (txs.take k) (s.answers (txs.take k))) := by
  rcases hk.lt_or_eq with hframe | rfl
  · exact busCommand_frame_fails hgranted hframe hcalls hfails
  · rw [List.take_length]
    exact busCommand_release_fails hgranted hcalls hfails

theorem State.failedTo.step_eq_fault {events : List BusEvent} (h : s.failedTo t events) :
    step t = .fault .busFailure := by
  obtain ⟨hfault, -⟩ := h
  exact step_of_fault hfault

/-- Settles O8: `exec_bus` gives the command's shape; the claim by `busCommand_claim_fails`, the frames and the release
by `busCommand_call_fails`, the end of the run by `State.failedTo.step_eq_fault`. -/
theorem busFailuresEndTheCommand : Obligations.BusFailuresEndTheCommand := by
  intro i s hbus hadmitted
  obtain ⟨finish, -, hexec⟩ := exec_bus hbus hadmitted
  refine ⟨fun hclaim => ?_, fun k hk hgranted hcalls hfails => ?_⟩
  · have hfailed := s.failedTo_claimAsked_busFailure
    exact ⟨_, hexec.trans (busCommand_claim_fails hclaim), hfailed, hfailed.step_eq_fault⟩
  · obtain ⟨t, ht, hfailed⟩ := busCommand_call_fails (finish := finish) hk hgranted hcalls hfails
    exact ⟨t, hexec.trans ht, hfailed.step_eq_fault, hfailed⟩

end Sys2Proof.Machine
end

section
/-! Reset and the step (spec/70_reset_and_hazards.md R310, R311, 10_state.md R22, 00_scope.md R12), and the bus claim by
itself (40_transaction.md R115). -/

namespace Sys2Proof.Machine

variable {i : Instr} {s : State}

/-- Settles O1: the fields of the construction with the defaults. -/
theorem resetHoldsTheTableOfDefaults : Obligations.ResetHoldsTheTableOfDefaults :=
  ⟨rfl, rfl, rfl, rfl, rfl, rfl, rfl, rfl, rfl, rfl, rfl, rfl⟩

/-- Settles O2: construction copies its parameters, and reset is construction with the defaults. -/
theorem constructionTakesItsParameters : Obligations.ConstructionTakesItsParameters :=
  ⟨fun _ _ _ _ _ => ⟨rfl, rfl, rfl, rfl⟩, rfl⟩

theorem step_command (hfault : s.fault = false) (hrefused : s.refused = false) (h : s.program[s.index]? = some i) :
    step s = exec i s := by
  simp only [step, hfault, hrefused, h, Bool.false_eq_true, if_false]

theorem step_idle (hfault : s.fault = false) (hrefused : s.refused = false) (h : s.program.length ≤ s.index) :
    step s = .next s := by
  simp only [step, hfault, hrefused, List.getElem?_eq_none h, Bool.false_eq_true, if_false]

/-- A placed command stands at the position, and nothing but the list and the position has moved. -/
theorem State.placeCommand_spec (s : State) (i : Instr) :
    (s.placeCommand i).program[(s.placeCommand i).index]? = some i ∧
      s.placeCommand i = { s with program := (s.placeCommand i).program, index := (s.placeCommand i).index } := by
  rw [State.placeCommand]
  split
  · next h => exact ⟨List.getElem?_set_self h, rfl⟩
  · exact ⟨List.getElem?_concat_length, rfl⟩

/-- Settles O3: the step by `step_command`, the placed frame by `State.placeCommand_spec`. -/
theorem stepRunsTheCommandAtThePosition : Obligations.StepRunsTheCommandAtThePosition := by
  refine ⟨fun s i hfault hrefused h => step_command hfault hrefused h, fun s nbits w i hfault hrefused hword => ?_⟩
  have hplaced : s.withFetchWord nbits w = s.placeCommand i := by rw [State.withFetchWord, hword]
  obtain ⟨hat, hframe⟩ := s.placeCommand_spec i
  refine ⟨_, hplaced, step_command ?_ ?_ hat, hframe⟩
  · rw [hframe]
    exact hfault
  · rw [hframe]
    exact hrefused

/-- The refusal a step answers is the one recorded last (R282). -/
theorem step_afterRefusal (hfault : s.fault = false) (why : RefuseReason) (i : Instr) :
    step (s.afterRefusal why i) = .refused (s.afterRefusal why i).lastRefusal :=
  step_of_refused (s := s.afterRefusal why i) hfault rfl

theorem State.getLast_outcomes_afterRefusal (s : State) (why : RefuseReason) (i : Instr) :
    (s.afterRefusal why i).outcomes.getLast? = some (.refused why i) := List.getLast?_concat

/-- Settles O4: a step by its marks, and the refusal it answers by the outcome recorded last. -/
theorem endedRunsDoNotContinue : Obligations.EndedRunsDoNotContinue := by
  refine ⟨fun s => step_of_fault, fun s hfault hrefused => ⟨_, step_of_refused hfault hrefused⟩,
    fun s i hfault => ?_, fun s => step_idle⟩
  simp only [step_afterRefusal hfault, State.lastRefusal, State.getLast_outcomes_afterRefusal, and_self]

theorem busClaim_granted (h : s.claimNow = .granted) : busClaim s = .granted s.claimAsked.claimGranted := by
  rw [busClaim, h]

theorem busClaim_notYet (h : s.claimNow = .notYet) : busClaim s = .waiting s.claimAsked := by
  rw [busClaim, h]

theorem busRelease_completes (h : s.callAt 0 = .completes) : busRelease s = .ok s.callAsked.busReleased := by
  rw [busRelease, h]

/-- Settles O34: one lemma for each answer; the bit order and the mode have the one value of their types. -/
theorem claimAndReleaseAreRecorded : Obligations.ClaimAndReleaseAreRecorded := fun _ =>
  ⟨fun h => ⟨_, busClaim_granted h⟩, fun h => ⟨_, busClaim_notYet h⟩, fun h => ⟨_, busRelease_completes h⟩⟩

end Sys2Proof.Machine
end

section
/-! One inversion of `exec` and one of `step` for the statements about every command (spec/10_state.md R22): each way a
command can end names the state it ends in. -/

namespace Sys2Proof.Machine

variable {i : Instr} {s t : State}

/-- The ways a command can end in the state `t`: refused, as a bus command, or at once without frames. -/
inductive CommandOutcome (i : Instr) (s t : State) : Prop where
  /-- a check of R95 fails -/
  | refused (why : RefuseReason) (h : t = s.afterRefusal why i)
  /-- an admitted bus command, whatever the bus layer does -/
  | bus (hbus : i.isBusCommand = true) (hadmitted : i.admitted s) (h : BusOutcome i s t)
  /-- an admitted command without frames -/
  | other (hbus : i.isBusCommand = false) (hadmitted : i.admitted s) (r : Result) (env : Env) (events : List BusEvent)
      (h : t = { s with
        fullscale := t.fullscale, csN := t.csN, started := t.started, trace := s.trace ++ events
        outcomes := s.outcomes ++ [.ok r], index := s.index + 1, env := env })
      (hfullscale : (∀ f, i ≠ .setFullscale f) → t.fullscale = s.fullscale)
      (hbegin : i = .beginLines → t.csN = .high ∧ t.started = true ∧ events = [.began s.csLine s.rdyLine])
      (hother : i ≠ .beginLines → t.csN = s.csN ∧ t.started = s.started ∧
        (events = [] ∨ ∃ level, events = [.drdySample level]))
      (hresult : ∀ bs, r ≠ .label bs)

/-- Every next state of a command is one of these. -/
theorem commandOutcome (h : exec i s = .next t) : CommandOutcome i s t := by
  rcases exec_cases i s with ⟨why, hrefused⟩ | ⟨hbus, hadmitted, u, hu, houtcome⟩ | ⟨hbus, hadmitted⟩
  · cases h.symm.trans hrefused
    exact .refused why rfl
  · cases h.symm.trans hu
    exact .bus hbus hadmitted houtcome
  · obtain ⟨u, r, env, events, hu, heq, hfullscale, hbegin, hother, hresult⟩ := exec_other hbus hadmitted
    cases h.symm.trans hu
    exact .other hbus hadmitted r env events heq hfullscale hbegin hother hresult

/-- A step to a next state starts without marks, and idles or runs one command (R12, R22, R121). -/
theorem step_next (h : step s = .next t) :
    s.fault = false ∧ s.refused = false ∧ (t = s ∨ ∃ i, exec i s = .next t) := by
  have hfault : s.fault = false := Bool.eq_false_iff.mpr fun hf => step_ne_next_of_mark (.inl hf) t h
  have hrefused : s.refused = false := Bool.eq_false_iff.mpr fun hr => step_ne_next_of_mark (.inr hr) t h
  refine ⟨hfault, hrefused, ?_⟩
  cases hi : s.program[s.index]? with
  | none =>
    cases h.symm.trans (step_idle hfault hrefused (List.getElem?_eq_none_iff.mp hi))
    exact .inl rfl
  | some i => exact .inr ⟨i, (step_command hfault hrefused hi).symm.trans h⟩

/-- A predicate that every command keeps, run without marks, is kept by every step. -/
theorem step_keeps {P : State → Prop}
    (hexec : ∀ i s t, s.fault = false → s.refused = false → P s → CommandOutcome i s t → P t)
    (hs : P s) (h : step s = .next t) : P t := by
  obtain ⟨hfault, hrefused, rfl | ⟨i, hi⟩⟩ := step_next h
  · exact hs
  · exact hexec i s t hfault hrefused hs (commandOutcome hi)

theorem started_of_admitted (hbus : i.isBusCommand = true) (h : i.admitted s) : s.started = true := by
  obtain ⟨-, hstarted, -⟩ := h
  exact hstarted (needsBegin_of_bus_or_isDataAvailable (.inl hbus))

end Sys2Proof.Machine
end

section
/-! The bus discipline under a step (spec/20_memory.md R64, 40_transaction.md R120, R121): the claim automaton runs over
the events each outcome appends, and the lines idle after it. -/

namespace Sys2Proof.Machine

variable {i : Instr} {s t : State}

theorem claimAfter_append (b : BusState) (before after : List BusEvent) :
    claimAfter b (before ++ after) = (claimAfter b before).bind fun b' => claimAfter b' after := by
  induction before generalizing b with
  | nil => rfl
  | cons e es ih =>
    rw [List.cons_append, claimAfter, claimAfter]
    cases nextClaim b e with
    | none => rfl
    | some b' => exact ih b'

theorem claimAfter_frames (txs rxs : List (List Byte)) : claimAfter .claimed (frameEvents txs rxs) = some .claimed := by
  induction txs generalizing rxs with
  | nil => rfl
  | cons tx txs ih =>
    cases rxs with
    | nil => rfl
    | cons rx rxs => exact ih rxs

theorem claimAfter_bus (s : State) (txs rxs : List (List Byte)) :
    claimAfter .released ([s.claimEvent] ++ frameEvents txs rxs ++ [.release]) = some .released := by
  rw [List.append_assoc, claimAfter_append, State.claimEvent]
  simp only [claimAfter, nextClaim, Option.bind_some]
  rw [claimAfter_append, claimAfter_frames]
  rfl

/-- The discipline of a state whose run has not failed. -/
def State.busIdle (s : State) : Prop :=
  claimAfter .released s.trace = some .released ∧ s.bus = .released ∧ s.csN = if s.started then .high else .z

theorem State.busDiscipline.idle (h : s.busDiscipline) (hfault : s.fault = false) : s.busIdle := h.2 hfault

theorem State.busIdle.busDiscipline (h : s.busIdle) : s.busDiscipline := ⟨by rw [h.1]; rfl, fun _ => h⟩

/-- A failed bus command leaves its claim open at most; chip-select is not constrained (R281). -/
theorem State.failedTo.busDiscipline {events : List BusEvent} (h : s.failedTo t events) (hs : s.busIdle)
    (hevents : (claimAfter .released events).isSome = true) : t.busDiscipline := by
  obtain ⟨hfault, htrace, -⟩ := h
  refine ⟨?_, fun hnot => absurd hfault (by simp [hnot])⟩
  rw [htrace, claimAfter_append, hs.1]
  exact hevents

theorem BusOutcome.busDiscipline (h : BusOutcome i s t) (hs : s.busIdle) (hstarted : s.started = true) :
    t.busDiscipline := by
  cases h with
  | waits h => exact h ▸ State.busIdle.busDiscipline (s := s.claimAsked) hs
  | fails events h he =>
    refine h.busDiscipline hs ?_
    rcases he with rfl | ⟨k, rfl⟩
    · rfl
    · rw [State.claimEvent, claimAfter]
      simp only [nextClaim, claimAfter_frames, Option.isSome_some]
  | served r buf label env h =>
    obtain ⟨htrace, -, hcsN⟩ := hs
    refine State.busIdle.busDiscipline ⟨?_, by rw [h], ?_⟩
    · rw [h]
      simp only [claimAfter_append .released s.trace, htrace, Option.bind_some, claimAfter_bus]
    · rw [h]
      rw [hstarted, if_pos rfl] at hcsN
      simp [hstarted, hcsN]

/-- Settles O18: a refusal leaves the lines and the trace alone, a bus command by `BusOutcome.busDiscipline`, and the
events of BEGIN and IS_DATA_AVAILABLE may stand between claims. -/
theorem stepsKeepTheBusDiscipline : Obligations.StepsKeepTheBusDiscipline := by
  refine fun s t => step_keeps fun i s t hfault _ hs houtcome => ?_
  have hidle := hs.idle hfault
  cases houtcome with
  | refused why h => exact h ▸ State.busIdle.busDiscipline (s := s.afterRefusal why i) hidle
  | bus hbus hadmitted h => exact h.busDiscipline hidle (started_of_admitted hbus hadmitted)
  | other _ _ r env events h _ hbegin hother =>
    obtain ⟨htrace, hbus, hcsN⟩ := hidle
    have hevents : t.trace = s.trace ++ events := by rw [h]
    refine State.busIdle.busDiscipline ⟨?_, by rw [h]; exact hbus, ?_⟩
    · rw [hevents, claimAfter_append, htrace]
      by_cases hi : i = .beginLines
      · obtain ⟨-, -, rfl⟩ := hbegin hi
        rfl
      · obtain ⟨-, -, rfl | ⟨level, rfl⟩⟩ := hother hi
        · rfl
        · rfl
    · by_cases hi : i = .beginLines
      · obtain ⟨hhigh, hstarted, -⟩ := hbegin hi
        rw [hhigh, hstarted, if_pos rfl]
      · obtain ⟨hsame, hstarted, -⟩ := hother hi
        rw [hsame, hstarted, hcsN]

end Sys2Proof.Machine
end

section
/-! The legality of the trace under a step (spec/30_encoding.md R87 to R89, 40_transaction.md R111, R113, R115): every
event a command appends is one of this configuration. -/

namespace Sys2Proof.Machine

variable {i : Instr} {s t : State}

/-- Every frame of a well-formed command is legal, whatever the command is. -/
theorem legalFrame_encodeFrames : ∀ i : Instr, Laws.FrameForms.Statement i
  | .beginLines => Laws.FrameForms.beginLines
  | .sendCommand cmd => Laws.FrameForms.sendCommand cmd
  | .resetSensor => Laws.FrameForms.resetSensor
  | .readRegister reg => Laws.FrameForms.readRegister reg
  | .writeRegister reg value => Laws.FrameForms.writeRegister reg value
  | .readMemory addr n => Laws.FrameForms.readMemory addr n
  | .writeMemory addr data => Laws.FrameForms.writeMemory addr data
  | .readOtp addr n => Laws.FrameForms.readOtp addr n
  | .readLabel addr len => Laws.FrameForms.readLabel addr len
  | .readProductNumber => Laws.FrameForms.readProductNumber
  | .readSerialNumber => Laws.FrameForms.readSerialNumber
  | .readFullscaleLabel1 => Laws.FrameForms.readFullscaleLabel1
  | .readFullscaleLabel2 => Laws.FrameForms.readFullscaleLabel2
  | .readDeviceType => Laws.FrameForms.readDeviceType
  | .readSpeedClass => Laws.FrameForms.readSpeedClass
  | .readSramCrc => Laws.FrameForms.readSramCrc
  | .readOtpCrc => Laws.FrameForms.readOtpCrc
  | .isDataAvailable => Laws.FrameForms.isDataAvailable
  | .setFullscale f => Laws.FrameForms.setFullscale f
  | .signExtend24 raw => Laws.FrameForms.signExtend24 raw
  | .convertPressure raw f => Laws.FrameForms.convertPressure raw f
  | .convertPressureStored raw => Laws.FrameForms.convertPressureStored raw
  | .convertTemperature raw => Laws.FrameForms.convertTemperature raw

/-- Legality sees only the configuration. -/
theorem State.sameConfig.eventLegal (h : s.sameConfig t) (e : BusEvent) : t.eventLegal e ↔ s.eventLegal e := by
  obtain ⟨hcsLine, hrdyLine, hclock, -⟩ := h
  cases e <;> simp only [State.eventLegal, hcsLine, hrdyLine, hclock]

/-- The trace stays legal when legal events are appended in the same configuration. -/
theorem State.traceLegal.append {events : List BusEvent} (hs : s.traceLegal) (hconfig : s.sameConfig t)
    (htrace : t.trace = s.trace ++ events) (hevents : ∀ e ∈ events, s.eventLegal e) : t.traceLegal := by
  intro e he
  rw [htrace, List.mem_append] at he
  exact (hconfig.eventLegal e).mpr (he.elim (hs e) (hevents e))

/-- Legal frames and the sensor's answers to them make legal events: one byte comes for each sent (R113). -/
theorem eventLegal_frames (c : State) : ∀ (txs : List (List Byte)) (s : State), (∀ tx ∈ txs, legalFrame tx) →
    ∀ e ∈ frameEvents txs (s.answers txs), c.eventLegal e
  | [], _, _, _, he => absurd he List.not_mem_nil
  | tx :: txs, s, hlegal, e, he => by
    rw [State.answers_cons] at he
    rcases List.mem_cons.mp he with rfl | he
    · exact ⟨hlegal tx List.mem_cons_self, s.length_received tx⟩
    · exact eventLegal_frames c txs _ (fun u hu => hlegal u (List.mem_cons_of_mem _ hu)) e he

theorem BusOutcome.traceLegal (h : BusOutcome i s t) (hs : s.traceLegal) (hw : i.wellFormed = true) :
    t.traceLegal := by
  have hframes : ∀ txs, (∀ tx ∈ txs, tx ∈ encodeFrames s.params i) →
      ∀ e ∈ frameEvents txs (s.answers txs), s.eventLegal e := fun txs htxs =>
    eventLegal_frames s txs s fun tx htx => legalFrame_encodeFrames i hw s.params tx (htxs tx htx)
  have hclaim : s.eventLegal s.claimEvent := rfl
  have hconfig := h.sameConfig
  cases h with
  | waits h => exact hs.append hconfig (events := []) (by rw [h]; simp) (by simp)
  | fails events h he =>
    obtain ⟨-, htrace, -⟩ := h
    refine hs.append hconfig htrace fun e hmem => ?_
    rcases he with rfl | ⟨k, rfl⟩
    · exact absurd hmem List.not_mem_nil
    · rcases List.mem_cons.mp hmem with rfl | hmem
      · exact hclaim
      · exact hframes _ (fun tx htx => List.mem_of_mem_take htx) e hmem
  | served r buf label env h =>
    refine hs.append hconfig (by rw [h]) fun e hmem => ?_
    simp only [List.mem_append, List.mem_singleton] at hmem
    obtain (rfl | hmem) | rfl := hmem
    · exact hclaim
    · exact hframes _ (fun _ htx => htx) e hmem
    · trivial

/-- Settles O19: a refusal appends no event, a bus command by `BusOutcome.traceLegal`, BEGIN records the configured
lines. -/
theorem stepsKeepTheTraceLegal : Obligations.StepsKeepTheTraceLegal := by
  refine fun s t => step_keeps fun i s t _ _ hs houtcome => ?_
  cases houtcome with
  | refused why h => exact h ▸ hs
  | bus _ hadmitted h => exact h.traceLegal hs hadmitted.1
  | other _ _ r env events h _ hbegin hother =>
    refine hs.append (by rw [h]; exact ⟨rfl, rfl, rfl, rfl, rfl, rfl, rfl⟩) (events := events) (by rw [h])
      fun e he => ?_
    by_cases hi : i = .beginLines
    · obtain ⟨-, -, rfl⟩ := hbegin hi
      cases List.mem_singleton.mp he
      exact ⟨rfl, rfl⟩
    · obtain ⟨-, -, rfl | ⟨level, rfl⟩⟩ := hother hi
      · exact absurd he List.not_mem_nil
      · cases List.mem_singleton.mp he
        trivial

end Sys2Proof.Machine
end

section
/-! The record of outcomes under a step (spec/60_exceptions.md R282): a step without marks records one outcome, with the
mark or the position that goes with it, or none. -/

namespace Sys2Proof.Machine

variable {i : Instr} {s t : State}

/-- A result and the position move together. -/
theorem State.outcomesAgree.ok {r : Result} (hs : s.outcomesAgree) (houtcomes : t.outcomes = s.outcomes ++ [.ok r])
    (hindex : t.index = s.index + 1) (hfault : t.fault = s.fault) (hrefused : t.refused = s.refused) :
    t.outcomesAgree := by
  obtain ⟨hresults, hfailure, hrefusal⟩ := hs
  refine ⟨?_, ?_, ?_⟩
  · rw [hindex, ← hresults, State.results, houtcomes]
    simp [resultOf, State.results]
  · simp [hfault, houtcomes, hfailure]
  · simp [hrefused, houtcomes, hrefusal, isRefusal]

/-- A BusFailure and FAULT come together. -/
theorem State.outcomesAgree.busFailure (hs : s.outcomesAgree) (houtcomes : t.outcomes = s.outcomes ++ [.busFailure])
    (hindex : t.index = s.index) (hfault : t.fault = true) (hrefused : t.refused = s.refused) : t.outcomesAgree := by
  obtain ⟨hresults, -, hrefusal⟩ := hs
  refine ⟨?_, ?_, ?_⟩
  · rw [hindex, ← hresults, State.results, houtcomes]
    simp [resultOf, State.results]
  · simp [hfault, houtcomes]
  · simp [hrefused, houtcomes, hrefusal, isRefusal]

/-- A recorded refusal and REFUSED come together. -/
theorem State.outcomesAgree.afterRefusal (hs : s.outcomesAgree) (why : RefuseReason) (i : Instr) :
    (s.afterRefusal why i).outcomesAgree := by
  obtain ⟨hresults, hfailure, -⟩ := hs
  refine ⟨?_, ?_, ?_⟩
  · simpa [State.afterRefusal, State.results, List.filterMap_cons, resultOf] using hresults
  · simpa [State.afterRefusal] using hfailure
  · simp [State.afterRefusal, isRefusal]

theorem BusOutcome.outcomesAgree (h : BusOutcome i s t) (hs : s.outcomesAgree) : t.outcomesAgree := by
  cases h with
  | waits h => exact h ▸ hs
  | fails events h _ =>
    obtain ⟨hfault, -, houtcomes, hindex, -, -, -, hrefused, -⟩ := h
    exact hs.busFailure houtcomes hindex hfault hrefused
  | served r buf label env h => exact hs.ok (r := r) (by rw [h]) (by rw [h]) (by rw [h]) (by rw [h])

/-- Settles O20: one lemma for each kind of outcome a command records. -/
theorem stepsKeepOutcomesAgreeing : Obligations.StepsKeepOutcomesAgreeing := by
  refine fun s t => step_keeps fun i s t _ _ hs houtcome => ?_
  cases houtcome with
  | refused why h => exact h ▸ hs.afterRefusal why i
  | bus _ _ h => exact h.outcomesAgree hs
  | other _ _ r env events h => exact hs.ok (r := r) (by rw [h]) (by rw [h]) (by rw [h]) (by rw [h])

/-- Settles O21: the trace and the record of outcomes are empty at reset. -/
theorem resetMeetsTheInvariants : Obligations.ResetMeetsTheInvariants :=
  ⟨State.busIdle.busDiscipline ⟨rfl, rfl, rfl⟩, List.forall_mem_nil _, rfl, by decide, by decide⟩

end Sys2Proof.Machine
end

section
/-! The wire decoder against the encoder (spec/30_encoding.md R84, R90, R93): what it reads from one frame of each
format and from a span of each memory variant. -/

namespace Sys2Proof.Machine

/-! ### One frame -/

theorem decodeFrame_commandFrame {cmd : Nat} (h : cmd < 256) :
    decodeFrame (commandFrame cmd) = .ok (if cmd = Config.resetCommand then .resetSensor else .sendCommand cmd) := by
  have hcmd : decodeFrame (commandFrame cmd) = decodeF1 (byteOf cmd) := rfl
  rw [hcmd, decodeF1, toNat_byteOf h]
  split <;> rfl

theorem decodeFrame_register {b0 : Byte} (b1 b2 b3 : Byte) (h : 0x40 ≤ b0.toNat) :
    decodeFrame [b0, b1, b2, b3] = decodeF4 b0 b1 b2 b3 :=
  decodeFrame_of_class (c := .register b0 b1 b2 b3) (if_pos h)

theorem decodeFrame_memory {b0 : Byte} (b1 b2 : Byte)
    (h : (0x10 ≤ b0.toNat ∧ b0.toNat ≤ 0x3F) ∨ (0x90 ≤ b0.toNat ∧ b0.toNat ≤ 0x9F)) :
    decodeFrame [b0, b1, b2] = decodeF3 b0 b1 b2 :=
  decodeFrame_of_class (c := .memory b0 b1 b2) (if_pos h)

theorem decodeFrame_regReadFrame {reg : Nat} (h : reg < 64) :
    decodeFrame (regReadFrame reg) = .ok (.readRegister reg) := by
  have hb0 : (byteOf (0x40 + reg)).toNat = 0x40 + reg := toNat_byteOf (by omega)
  have hreg : (0x40 + reg) % 64 = reg := by omega
  rw [regReadFrame_eq h, decodeFrame_register _ _ _ (by omega)]
  simp only [decodeF4, hb0, hreg]
  rw [if_pos (by omega), if_pos ⟨trivial, trivial, trivial⟩]

theorem decodeFrame_regWriteFrame {reg value : Nat} (h : reg < 64) (hvalue : value < 16777216) :
    decodeFrame (regWriteFrame reg value) = .ok (.writeRegister reg value) := by
  have hb0 : (byteOf (0xC0 + reg)).toNat = 0xC0 + reg := toNat_byteOf (by omega)
  have hreg : (0xC0 + reg) % 64 = reg := by omega
  have hbytes :
      bigEndian24 (byteOf (value / 2 ^ 16)) (byteOf (value / 2 ^ 8 % 256)) (byteOf (value % 256)) = value := by
    rw [bigEndian24, toNat_byteOf (by omega), toNat_byteOf (by omega), toNat_byteOf (by omega)]
    omega
  rw [regWriteFrame_eq value h, decodeFrame_register _ _ _ (by omega)]
  simp only [decodeF4, hb0, hreg, hbytes]
  rw [if_neg (by omega), if_pos (by omega)]

/-- The plain access a span of a variant shows on the wire, with its address and data bytes (R171). -/
def spanAccess : MemVariant → Nat → List Byte → Instr
  | .mainRead, a, ds => .readMemory a ds.length
  | .mainWrite, a, ds => .writeMemory a (ds.map BitVec.toNat)
  | .otpRead, a, ds => .readOtp a ds.length

theorem decodeFrame_memFrame (v : MemVariant) (a : Nat) {d : Byte} (hd : v ≠ .mainWrite → d = 0) :
    decodeFrame (memFrame v a d) = .ok (spanAccess v (a % 2 ^ (8 + memHighBits v)) [d]) := by
  have hlow : (byteOf (a % 256)).toNat = a % 256 := toNat_byteOf (by omega)
  cases v with
  | mainRead =>
    have hb0 : (byteOf (0x10 + a / 256 % 16)).toNat = 0x10 + a / 256 % 16 := toNat_byteOf (by omega)
    have haddr : (0x10 + a / 256 % 16) % 16 * 256 + a % 256 = a % 2 ^ (8 + 4) := by omega
    rw [memFrame_mainRead, decodeFrame_memory _ _ (by omega)]
    simp only [decodeF3, hb0, hlow, haddr, hd nofun]
    rw [if_pos (by omega), if_pos trivial]
    rfl
  | mainWrite =>
    have hb0 : (byteOf (0x90 + a / 256 % 16)).toNat = 0x90 + a / 256 % 16 := toNat_byteOf (by omega)
    have haddr : (0x90 + a / 256 % 16) % 16 * 256 + a % 256 = a % 2 ^ (8 + 4) := by omega
    rw [memFrame_mainWrite, decodeFrame_memory _ _ (by omega)]
    simp only [decodeF3, hb0, hlow, haddr]
    rw [if_neg (by omega), if_neg (by omega), if_pos (by omega)]
    rfl
  | otpRead =>
    have hb0 : (byteOf (0x20 + a / 256 % 32)).toNat = 0x20 + a / 256 % 32 := toNat_byteOf (by omega)
    have haddr : (0x20 + a / 256 % 32) % 32 * 256 + a % 256 = a % 2 ^ (8 + 5) := by omega
    rw [memFrame_otpRead, decodeFrame_memory _ _ (by omega)]
    simp only [decodeF3, hb0, hlow, haddr, hd nofun]
    rw [if_neg (by omega), if_pos (by omega), if_pos trivial]
    rfl

/-! ### Spans -/

/-- A span's frames do not see the address bits above those they carry (R84). -/
theorem spanFrames_mod (v : MemVariant) (a : Nat) (ds : List Byte) :
    spanFrames v (a % 2 ^ (8 + memHighBits v)) ds = spanFrames v a ds := by
  simp only [spanFrames_eq_map]
  refine List.map_congr_left fun k _ => ?_
  rw [memFrame_mod, Nat.mod_add_mod, ← memFrame_mod]

theorem spanOr_of_eq {v : MemVariant} {a : Nat} {ds : List Byte} {fs : List (List Byte)} (i : Instr)
    (h : fs = spanFrames v a ds) : spanOr v a ds fs i = .ok i := if_pos h

theorem map_data_spanFrames (v : MemVariant) : ∀ (ds : List Byte) (a : Nat),
    (spanFrames v a ds).map (fun g => g.getD 2 0) = ds
  | [], _ => rfl
  | d :: ds, a => congrArg (d :: ·) (map_data_spanFrames v ds (a + 1))

theorem placeholders_succ (n : Nat) : placeholders (n + 1) = 0 :: placeholders n := rfl

/-- The data bytes a span of the variant may carry: a read's are placeholders (R171). -/
def spanData (v : MemVariant) (ds : List Byte) : Prop := v ≠ .mainWrite → ds = placeholders ds.length

theorem decodeSpan_spanFrames (v : MemVariant) (a : Nat) {ds : List Byte} (hds : spanData v ds) (hne : ds ≠ []) :
    decodeSpan (spanFrames v a ds) = .ok (spanAccess v (a % 2 ^ (8 + memHighBits v)) ds) := by
  match ds, hne with
  | d :: ds, _ =>
    have hfirst := decodeFrame_memFrame v a (d := d) fun hv => (List.cons.inj (hds hv)).1
    match ds with
    | [] => exact hfirst
    | d' :: ds =>
      have hlen : (spanFrames v a (d :: d' :: ds)).length = (d :: d' :: ds).length := length_spanFrames _ _ _
      have hdata := map_data_spanFrames v (d :: d' :: ds) a
      have hspan := (spanFrames_mod v a (d :: d' :: ds)).symm
      rw [spanFrames, decodeSpan, hfirst, ← spanFrames]
      · cases v with
        | mainRead =>
          simp only [spanAccess, hlen, ← hds nofun]
          exact spanOr_of_eq _ hspan
        | mainWrite =>
          simp only [spanAccess, List.map_cons, List.map_nil, hdata]
          exact spanOr_of_eq _ hspan
        | otpRead =>
          simp only [spanAccess, hlen, ← hds nofun]
          exact spanOr_of_eq _ hspan
      · simp [spanFrames]

/-! ### Every command -/

theorem decodeSpan_read (v : MemVariant) (a : Nat) {n : Nat}
    (h : spanFrames v a (placeholders n) ≠ []) :
    decodeSpan (spanFrames v a (placeholders n)) =
      .ok (spanAccess v (a % 2 ^ (8 + memHighBits v)) (placeholders n)) := by
  refine decodeSpan_spanFrames v a (fun _ => by rw [length_placeholders]) fun hnil => h ?_
  rw [hnil, spanFrames]

theorem decodeSpan_mainRead {a n : Nat} (h : spanFrames .mainRead a (placeholders n) ≠ []) :
    decodeSpan (spanFrames .mainRead a (placeholders n)) = .ok (wireRead a n) := by
  have hspan := decodeSpan_read .mainRead a h
  rwa [spanAccess, length_placeholders] at hspan

theorem decodeSpan_otpRead {a n : Nat} (h : spanFrames .otpRead a (placeholders n) ≠ []) :
    decodeSpan (spanFrames .otpRead a (placeholders n)) = .ok (.readOtp (a % 8192) n) := by
  have hspan := decodeSpan_read .otpRead a h
  rwa [spanAccess, length_placeholders] at hspan

theorem map_toNat_map_byteOf {data : List Nat} (h : ∀ d ∈ data, d < 256) :
    (data.map byteOf).map BitVec.toNat = data := by
  rw [List.map_map]
  exact (List.map_congr_left fun d hd => toNat_byteOf (h d hd)).trans (List.map_id data)

theorem decodeSpan_mainWrite {a : Nat} {data : List Nat} (hdata : ∀ d ∈ data, d < 256)
    (h : spanFrames .mainWrite a (data.map byteOf) ≠ []) :
    decodeSpan (spanFrames .mainWrite a (data.map byteOf)) = .ok (.writeMemory (a % 4096) data) := by
  have hspan := decodeSpan_spanFrames .mainWrite a (ds := data.map byteOf) (absurd rfl)
    fun hnil => h (by rw [hnil, spanFrames])
  rwa [spanAccess, map_toNat_map_byteOf hdata] at hspan

/-- A read at an OPEN address that sends frames has its address (R95, check 3). -/
theorem decodeSpan_openMainRead {n : Nat} {p : Option Nat} (h : openReadSpan .mainRead n p ≠ []) :
    decodeSpan (openReadSpan .mainRead n p) = .ok (wireRead (p.getD 0) n) := by
  cases p with
  | none => exact absurd rfl h
  | some a => exact decodeSpan_mainRead h

theorem decodeSpan_openOtpRead {n : Nat} {p : Option Nat} (h : openReadSpan .otpRead n p ≠ []) :
    decodeSpan (openReadSpan .otpRead n p) = .ok (.readOtp (p.getD 0 % 8192) n) := by
  cases p with
  | none => exact absurd rfl h
  | some a => exact decodeSpan_otpRead h

/-- Settles O22: one frame by the format's lemma, a span by its variant's, a read at an OPEN address by the span at the
address it must have. -/
theorem wireDecodesWhatWasEncoded : Obligations.WireDecodesWhatWasEncoded := by
  intro p i hw hne
  cases i with
  | sendCommand cmd => exact decodeFrame_commandFrame ((wellFormed_sendCommand cmd).mp hw)
  | resetSensor => exact decodeFrame_commandFrame (cmd := Config.resetCommand) (by decide)
  | readRegister reg => exact decodeFrame_regReadFrame ((wellFormed_readRegister reg).mp hw)
  | writeRegister reg value =>
    obtain ⟨hreg, hvalue⟩ := (wellFormed_writeRegister reg value).mp hw
    exact decodeFrame_regWriteFrame hreg hvalue
  | readMemory addr n => exact decodeSpan_mainRead hne
  | writeMemory addr data => exact decodeSpan_mainWrite ((wellFormed_writeMemory addr data).mp hw) hne
  | readOtp addr n => exact decodeSpan_otpRead hne
  | readLabel addr len => exact decodeSpan_mainRead hne
  | readProductNumber | readSerialNumber | readFullscaleLabel1 | readFullscaleLabel2 | readDeviceType
  | readSpeedClass | readSramCrc => exact decodeSpan_openMainRead hne
  | readOtpCrc => exact decodeSpan_openOtpRead hne
  | beginLines | isDataAvailable | setFullscale _ | signExtend24 _ | convertPressure _ _ | convertPressureStored _
  | convertTemperature _ => exact absurd rfl hne

end Sys2Proof.Machine
end

section
/-! Reading a printed line (spec/30_encoding.md R92): every mnemonic names its reader in the table, and each operand
form reads its printed operands back. -/

namespace Sys2Proof

variable {name : List Char} {i : Instr}

/-- A printed number holds none of the characters that separate operands. -/
theorem printNat_not_separator (n : Nat) : ∀ c ∈ printNat n, c ≠ ',' ∧ c ≠ '[' ∧ c ≠ ']' := fun c hc =>
  not_separator_of_plain (printNat_plain n c hc)

/-- A text of operands that neither begins nor ends with a blank. -/
def solidEnds (ops : List Char) : Prop :=
  ops ≠ [] ∧ (∀ c, ops.head? = some c → isBlank c = false) ∧ ∀ c, ops.getLast? = some c → isBlank c = false

theorem solidEnds_of_plain {ops : List Char} (hne : ops ≠ []) (h : ∀ c ∈ ops, plainChar c = true) : solidEnds ops :=
  ⟨hne, fun c hc => isBlank_of_plain (h c (List.mem_of_mem_head? hc)),
    fun c hc => isBlank_of_plain (h c (List.mem_of_getLast? hc))⟩

theorem solidEnds_printNat (n : Nat) : solidEnds (printNat n) :=
  solidEnds_of_plain (printNat_ne_nil n) (printNat_plain n)

theorem solidEnds_printFloat (f : F32) : solidEnds (printFloat f) :=
  solidEnds_of_plain (by simp [printFloat]) (printFloat_plain f)

theorem solidEnds_printList (ns : List Nat) : solidEnds (printList ns) := by
  refine ⟨by simp [printList], fun c hc => ?_, fun c hc => ?_⟩
  · cases hc
    rfl
  · rw [printList, ← List.cons_append, List.getLast?_append, List.getLast?_singleton] at hc
    cases hc
    rfl

/-- Operands with a comma and a blank between them begin as the first and end as the second. -/
theorem solidEnds_pair {a b : List Char} (ha : solidEnds a) (hb : solidEnds b) :
    solidEnds (a ++ ',' :: ' ' :: b) := by
  obtain ⟨hane, hahead, -⟩ := ha
  obtain ⟨hbne, -, hblast⟩ := hb
  refine ⟨by simp, fun c hc => hahead c ?_, fun c hc => hblast c ?_⟩
  · rwa [List.head?_append_of_ne_nil _ hane] at hc
  · rwa [List.getLast?_append_of_ne_nil _ (List.cons_ne_nil _ _), List.getLast?_cons_cons,
      List.getLast?_cons_of_ne_nil hbne] at hc

theorem readLine_solid {reader : List (List Char) → Except SyntaxError Instr} (h : NamesReader name reader)
    {ops : List Char} (hops : solidEnds ops) : readLine (name ++ ' ' :: ops) = reader (splitOperands false ops) := by
  obtain ⟨hne, hhead, hlast⟩ := hops
  exact readLine_operands h hhead hlast hne

/-! ### The printed line by its operands -/

theorem printLine_noOperand (h : printOperands i = []) : printLine i = mnemonicOf i := by rw [printLine, h]

theorem printLine_one {a : List Char} (h : printOperands i = [a]) : printLine i = mnemonicOf i ++ ' ' :: a := by
  simp only [printLine, h, joinParts]

theorem printLine_two {a b : List Char} (h : printOperands i = [a, b]) :
    printLine i = mnemonicOf i ++ ' ' :: (a ++ ',' :: ' ' :: b) := by
  simp [printLine, h, joinParts]

/-! ### One lemma for each form of operands -/

theorem readLine_noOperand {j : Instr} (hi : printOperands i = []) (h : NamesReader (mnemonicOf i) (noOperand j)) :
    readLine (printLine i) = .ok j := by
  rw [printLine_noOperand hi, readLine_name h, noOperand]

theorem readLine_oneNat {mk : Nat → Instr} {n : Nat} (hi : printOperands i = [printNat n])
    (h : NamesReader (mnemonicOf i) (oneNat mk)) : readLine (printLine i) = .ok (mk n) := by
  rw [printLine_one hi, readLine_solid h (solidEnds_printNat n), splitOperands_plain (printNat_not_separator n)]
  simp only [oneNat, readNat_printNat]

theorem readLine_oneFloat {mk : F32 → Instr} {f : F32} (hi : printOperands i = [printFloat f])
    (h : NamesReader (mnemonicOf i) (oneFloat mk)) : readLine (printLine i) = .ok (mk f) := by
  rw [printLine_one hi, readLine_solid h (solidEnds_printFloat f),
    splitOperands_plain fun c hc => not_separator_of_plain (printFloat_plain f c hc)]
  simp only [oneFloat, readFloat_printFloat]

/-- A line of a number and another operand: the reader gets the two, the second after its blank. -/
theorem readLine_natAnd {reader : List (List Char) → Except SyntaxError Instr} {n : Nat} {b : List Char}
    (hi : printOperands i = [printNat n, b]) (h : NamesReader (mnemonicOf i) reader)
    (hb : solidEnds b) (hsplit : splitOperands false (' ' :: b) = [' ' :: b]) :
    readLine (printLine i) = reader [printNat n, ' ' :: b] := by
  rw [printLine_two hi, readLine_solid h (solidEnds_pair (solidEnds_printNat n) hb),
    splitOperands_cons _ (printNat_not_separator n), hsplit]

theorem splitOperands_blank_plain {b : List Char} (h : ∀ c ∈ b, plainChar c = true) :
    splitOperands false (' ' :: b) = [' ' :: b] :=
  splitOperands_plain fun c hc => (List.mem_cons.mp hc).elim (by rintro rfl; decide)
    fun hc => not_separator_of_plain (h c hc)

theorem readLine_twoNats {mk : Nat → Nat → Instr} {m n : Nat} (hi : printOperands i = [printNat m, printNat n])
    (h : NamesReader (mnemonicOf i) (twoNats mk)) : readLine (printLine i) = .ok (mk m n) := by
  rw [readLine_natAnd hi h (solidEnds_printNat n) (splitOperands_blank_plain (printNat_plain n))]
  simp only [twoNats, readNat_printNat, readNat_blank_printNat]

theorem readLine_natAndFloat {mk : Nat → F32 → Instr} {n : Nat} {f : F32}
    (hi : printOperands i = [printNat n, printFloat f]) (h : NamesReader (mnemonicOf i) (natAndFloat mk)) :
    readLine (printLine i) = .ok (mk n f) := by
  rw [readLine_natAnd hi h (solidEnds_printFloat f) (splitOperands_blank_plain (printFloat_plain f))]
  simp only [natAndFloat, readNat_printNat, readFloat_blank_printFloat]

theorem readLine_natAndList {mk : Nat → List Nat → Instr} {n : Nat} {ns : List Nat}
    (hi : printOperands i = [printNat n, printList ns]) (h : NamesReader (mnemonicOf i) (natAndList mk)) :
    readLine (printLine i) = .ok (mk n ns) := by
  rw [readLine_natAnd hi h (solidEnds_printList ns) (splitOperands_blank_printList ns)]
  simp only [natAndList, readNat_printNat, readList_blank_printList]

/-- Settles O24: one lemma for each form of operands, with the mnemonic's row of the table. -/
theorem textReadsWhatWasPrinted : Obligations.TextReadsWhatWasPrinted := by
  intro i
  cases i with
  | beginLines | resetSensor | readProductNumber | readSerialNumber | readFullscaleLabel1 | readFullscaleLabel2
  | readDeviceType | readSpeedClass | readSramCrc | readOtpCrc | isDataAvailable =>
    exact readLine_noOperand rfl ⟨rfl, rfl, nofun⟩
  | sendCommand _ | readRegister _ | signExtend24 _ | convertPressureStored _ | convertTemperature _ =>
    exact readLine_oneNat rfl ⟨rfl, rfl, nofun⟩
  | writeRegister _ _ | readMemory _ _ | readOtp _ _ | readLabel _ _ =>
    exact readLine_twoNats rfl ⟨rfl, rfl, nofun⟩
  | writeMemory addr data => exact readLine_natAndList rfl ⟨rfl, rfl, nofun⟩
  | setFullscale f => exact readLine_oneFloat rfl ⟨rfl, rfl, nofun⟩
  | convertPressure raw f => exact readLine_natAndFloat rfl ⟨rfl, rfl, nofun⟩

end Sys2Proof
end

section
/-! Statements about every command (spec/30_encoding.md R95, 40_transaction.md R115, 10_state.md R26, R36): what an
admitted command, a wait and FULLSCALE come to, and that the records only grow. -/

namespace Sys2Proof.Machine

variable {i : Instr} {s t : State}

theorem BusOutcome.refused_eq (h : BusOutcome i s t) : t.refused = s.refused := by
  cases h with
  | waits h => exact h ▸ s.claimAsked_refused
  | fails events h _ =>
    obtain ⟨-, -, -, -, -, -, -, hrefused, -⟩ := h
    exact hrefused
  | served r buf label env h => rw [h]

/-- Settles O6: an admitted command is a bus command, whose outcomes leave REFUSED alone, or completes at once. -/
theorem admittedCommandsAreNotRefused : Obligations.AdmittedCommandsAreNotRefused := by
  intro i s hadmitted
  cases hbus : i.isBusCommand with
  | true =>
    obtain ⟨t, ht, houtcome⟩ := exec_bus_cases hbus hadmitted
    exact ⟨t, ht, houtcome.refused_eq⟩
  | false =>
    obtain ⟨t, r, env, events, ht, heq, -⟩ := exec_other hbus hadmitted
    exact ⟨t, ht, by rw [heq]⟩

/-- Settles O9, by `busCommand_waits` on the shape `exec_bus` gives. -/
theorem ungrantedClaimsLeaveTheCommandWaiting : Obligations.UngrantedClaimsLeaveTheCommandWaiting := by
  intro i s hbus hadmitted hclaim
  obtain ⟨finish, -, hexec⟩ := exec_bus hbus hadmitted
  exact ⟨hexec.trans (busCommand_waits hclaim), rfl, rfl⟩

theorem BusOutcome.fullscale (h : BusOutcome i s t) : t.fullscale = s.fullscale := by
  cases h with
  | waits h => exact h ▸ s.claimAsked_fullscale
  | fails events h _ =>
    obtain ⟨-, -, -, -, -, hfullscale, -⟩ := h
    exact hfullscale
  | served r buf label env h => rw [h]

/-- Settles O13: no outcome but SET_FULLSCALE's own moves FULLSCALE, and the stored conversion is the explicit one at
the stored value. -/
theorem fullscaleChangesOnlyBySetFullscale : Obligations.FullscaleChangesOnlyBySetFullscale := by
  refine ⟨fun i s t ht hi => ?_, fun s t f raw hraw ht => ?_⟩
  · cases commandOutcome ht with
    | refused why h => rw [h]; rfl
    | bus _ _ h => exact h.fullscale
    | other _ _ r env events _ hfullscale => exact hfullscale hi
  · cases ht.symm.trans (setFullscaleStoresBitExact s f)
    exact ⟨rfl, exec_convertPressureStored hraw _⟩

/-- The trace and the outcomes of `s` are prefixes of those of `t`, and the position is not behind (R22, R36). -/
def State.growsTo (s t : State) : Prop := s.trace <+: t.trace ∧ s.outcomes <+: t.outcomes ∧ s.index ≤ t.index

theorem State.growsTo_of_append {events : List BusEvent} {outcomes : List CmdOutcome}
    (htrace : t.trace = s.trace ++ events) (houtcomes : t.outcomes = s.outcomes ++ outcomes)
    (hindex : s.index ≤ t.index) : s.growsTo t :=
  ⟨⟨events, htrace.symm⟩, ⟨outcomes, houtcomes.symm⟩, hindex⟩

theorem BusOutcome.growsTo (h : BusOutcome i s t) : s.growsTo t := by
  cases h with
  | waits h =>
    subst h
    exact ⟨List.prefix_rfl, List.prefix_rfl, le_rfl⟩
  | fails events h _ =>
    obtain ⟨-, htrace, houtcomes, hindex, -⟩ := h
    exact State.growsTo_of_append htrace houtcomes hindex.ge
  | served r buf label env h =>
    subst h
    exact State.growsTo_of_append rfl rfl (Nat.le_succ _)

/-- Settles O16: every outcome appends to the trace and to the record. -/
theorem traceAndOutcomesOnlyGrow : Obligations.TraceAndOutcomesOnlyGrow := by
  intro i s t ht
  cases commandOutcome ht with
  | refused why h =>
    subst h
    exact State.growsTo_of_append (events := []) (List.append_nil _).symm rfl le_rfl
  | bus _ _ h => exact h.growsTo
  | other _ _ r env events h =>
    exact State.growsTo_of_append (events := events) (by rw [h]) (by rw [h]) (by rw [h]; exact Nat.le_succ _)

end Sys2Proof.Machine
end

section
/-! Chip-select along a trace and within a frame (spec/40_transaction.md R110, R112, R118): one low pulse for each frame
of a command, and in the bit-level view the bytes of both sides sampled while it is low. -/

namespace Sys2Proof.Machine

theorem csLevels_frames : ∀ (txs rxs : List (List Byte)), rxs.length = txs.length →
    csLevels (frameEvents txs rxs) = (List.replicate txs.length [CsLevel.low, CsLevel.high]).flatten
  | [], _, _ => rfl
  | _ :: txs, _ :: rxs, h =>
    congrArg ([CsLevel.low, CsLevel.high] ++ ·) (csLevels_frames txs rxs (Nat.succ.inj h))

theorem csLevels_bus (s : State) (txs rxs : List (List Byte)) (h : rxs.length = txs.length) :
    csLevels ([s.claimEvent] ++ frameEvents txs rxs ++ [.release]) =
      (List.replicate txs.length [CsLevel.low, CsLevel.high]).flatten := by
  rw [csLevels_append, csLevels_append, csLevels_frames txs rxs h]
  exact List.append_nil _

/-- The bytes between the two edges of chip-select. -/
def bytesWave (tx rx : List Byte) : List LineSample := (tx.zip rx).flatMap fun x => byteWave x.1 x.2

theorem frameWave_eq (tx rx : List Byte) :
    frameWave tx rx = ⟨.low, .low, none, none⟩ :: (bytesWave tx rx ++ [⟨.high, .low, none, none⟩]) := rfl

theorem map_csN_byteWave (b m : Byte) : (byteWave b m).map (fun x => x.csN) = List.replicate 16 .low := rfl

theorem map_csN_bytesWave : ∀ tx rx : List Byte, rx.length = tx.length →
    (bytesWave tx rx).map (fun x => x.csN) = List.replicate (16 * tx.length) .low
  | [], _, _ => rfl
  | b :: tx, m :: rx, h => by
    have htail := map_csN_bytesWave tx rx (Nat.succ.inj h)
    calc (bytesWave (b :: tx) (m :: rx)).map (fun x => x.csN)
        = List.replicate 16 .low ++ List.replicate (16 * tx.length) .low := by
          rw [← htail, ← map_csN_byteWave b m, ← List.map_append]
          rfl
      _ = List.replicate (16 * (b :: tx).length) .low := by
          rw [List.replicate_append_replicate, List.length_cons, Nat.mul_succ, Nat.add_comm]

/-- The bit pairs a frame exchanges, in the order of time. -/
def bitPairs (tx rx : List Byte) : List (Bool × Bool) :=
  (tx.zip rx).flatMap fun x => (msbFirstBits x.1).zip (msbFirstBits x.2)

/-- The edges of chip-select carry no clock pulse, so the sides sample the bit pairs of the bytes alone. -/
theorem atTrailingEdges_frameWave (tx rx : List Byte) :
    atTrailingEdges .low (frameWave tx rx) = (bitPairs tx rx).map fun x => ⟨.low, .low, some x.1, some x.2⟩ := by
  have hpulses : bytesWave tx rx = (bitPairs tx rx).flatMap fun x => clockPulse x.1 x.2 := by
    rw [bitPairs, List.flatMap_assoc]
    rfl
  have hedges := atTrailingEdges_pulses (bitPairs tx rx) [⟨.high, .low, none, none⟩]
  rw [← hpulses] at hedges
  rw [frameWave_eq]
  simpa [atTrailingEdges] using hedges

theorem map_fst_bitPairs : ∀ tx rx : List Byte, rx.length = tx.length →
    (bitPairs tx rx).map Prod.fst = tx.flatMap msbFirstBits
  | [], _, _ => rfl
  | b :: tx, _ :: rx, h => congrArg (msbFirstBits b ++ ·) (map_fst_bitPairs tx rx (Nat.succ.inj h))

theorem map_snd_bitPairs : ∀ tx rx : List Byte, rx.length = tx.length →
    (bitPairs tx rx).map Prod.snd = rx.flatMap msbFirstBits
  | [], [], _ => rfl
  | _ :: tx, m :: rx, h => congrArg (msbFirstBits m ++ ·) (map_snd_bitPairs tx rx (Nat.succ.inj h))

theorem sampledMosi_frameWave {tx rx : List Byte} (h : rx.length = tx.length) :
    sampledMosi (frameWave tx rx) = tx.flatMap msbFirstBits := by
  rw [sampledMosi, atTrailingEdges_frameWave, List.filterMap_map, ← map_fst_bitPairs tx rx h]
  exact congrFun List.filterMap_eq_map _

theorem sampledMiso_frameWave {tx rx : List Byte} (h : rx.length = tx.length) :
    sampledMiso (frameWave tx rx) = rx.flatMap msbFirstBits := by
  rw [sampledMiso, atTrailingEdges_frameWave, List.filterMap_map, ← map_snd_bitPairs tx rx h]
  exact congrFun List.filterMap_eq_map _

/-- Settles O11: the trace by `oneClaimForEachBusCommand` and the levels of its events; the wave by its three
readings. -/
theorem chipSelectPulsesOncePerFrame : Obligations.ChipSelectPulsesOncePerFrame := by
  refine ⟨fun i s hbus hadmitted hserves => ?_, fun tx rx h =>
    ⟨?_, sampledMosi_frameWave h, sampledMiso_frameWave h⟩⟩
  · obtain ⟨t, ht, htrace⟩ := oneClaimForEachBusCommand i s hbus hadmitted hserves
    exact ⟨t, ht, by rw [htrace, csLevels_append, csLevels_bus s _ _ (State.length_answers _ s)]⟩
  · rw [frameWave_eq, List.map_cons, List.map_append, map_csN_bytesWave tx rx h]
    rfl

end Sys2Proof.Machine
end

section
/-! LABEL_BUF and the labels returned (spec/43_label_crc.md R200 to R208, 10_state.md R30): a bus command runs the label
reader, or its end writes no label and returns none. -/

namespace Sys2Proof.Machine

variable {i : Instr} {s t : State} {txs : List (List Byte)} {finish : List (List Byte) → State → State}

/-- The command is READ_LABEL or one of its six accessors (R200, R202 to R207). -/
def runsLabelReader : Instr → Bool
  | .readLabel _ _ | .readProductNumber | .readSerialNumber | .readFullscaleLabel1 | .readFullscaleLabel2
  | .readDeviceType | .readSpeedClass => true
  | _ => false

/-- A command's end that hands over a result which is no label, and does nothing else. -/
def EndsWithoutLabel (finish : List (List Byte) → State → State) : Prop :=
  ∀ rxs v, ∃ r, finish rxs v = v.complete r ∧ ∀ bs, r ≠ .label bs

theorem endsWithoutLabel_unit : EndsWithoutLabel finishUnit := fun _ _ => ⟨.unit, rfl, nofun⟩

theorem endsWithoutLabel_register : EndsWithoutLabel finishRegister := fun _ _ => ⟨_, rfl, nofun⟩

theorem endsWithoutLabel_bytes : EndsWithoutLabel finishBytes := fun _ _ => ⟨_, rfl, nofun⟩

theorem endsWithoutLabel_crc : EndsWithoutLabel finishCrc := fun _ _ => ⟨_, rfl, nofun⟩

/-- An admitted bus command outside the label reader ends without a label. -/
theorem exec_bus_without_label (hlabel : runsLabelReader i = false) (hbus : i.isBusCommand = true)
    (hadmitted : i.admitted s) :
    ∃ finish, EndsWithoutLabel finish ∧ exec i s = busCommand (encodeFrames s.params i) finish s := by
  have hs := started_of_admitted hbus hadmitted
  obtain ⟨hw, -, hp⟩ := hadmitted
  cases i with
  | readLabel _ _ | readProductNumber | readSerialNumber | readFullscaleLabel1 | readFullscaleLabel2
  | readDeviceType | readSpeedClass => cases hlabel
  | beginLines | isDataAvailable | setFullscale _ | signExtend24 _ | convertPressure _ _ | convertPressureStored _
  | convertTemperature _ => cases hbus
  | sendCommand _ | resetSensor | writeRegister _ _ | writeMemory _ _ =>
    exact ⟨finishUnit, endsWithoutLabel_unit, checkStarted_started hw hs⟩
  | readRegister _ => exact ⟨finishRegister, endsWithoutLabel_register, checkStarted_started hw hs⟩
  | readMemory _ _ | readOtp _ _ => exact ⟨finishBytes, endsWithoutLabel_bytes, checkStarted_started hw hs⟩
  | readSramCrc | readOtpCrc => exact ⟨finishCrc, endsWithoutLabel_crc, execOpen_value hw hs hp rfl rfl⟩

/-- An end without a label leaves LABEL_BUF alone, and so does a wait and a failure. -/
theorem busCommand_labelBuf (hfinish : EndsWithoutLabel finish) (h : busCommand txs finish s = .next t) :
    t.labelBuf = s.labelBuf := by
  rcases busCommand_cases txs finish s with hwait | ⟨u, events, hu, hfailed, -⟩ | hserves
  · cases h.symm.trans hwait
    rfl
  · cases h.symm.trans hu
    obtain ⟨-, -, -, -, -, -, -, -, hbuf⟩ := hfailed
    exact hbuf
  · obtain ⟨v, hv, -, -, -, -, buf, env, heq⟩ := busCommand_served (finish := finish) hserves
    obtain ⟨r, hr, -⟩ := hfinish (s.answers txs) v
    cases h.symm.trans hv
    rw [hr, State.complete_labelBuf, heq]

/-- Settles O15: a refusal, an end without a label and a command without frames leave LABEL_BUF alone. -/
theorem labelBufferWrittenOnlyByLabels : Obligations.LabelBufferWrittenOnlyByLabels := by
  intro i s t ht hread haccessor
  cases commandOutcome ht with
  | refused why h => rw [h]; rfl
  | bus hbus hadmitted _ =>
    have hlabel : runsLabelReader i = false := by
      cases i with
      | readLabel addr len => exact absurd rfl (hread addr len)
      | readProductNumber | readSerialNumber | readFullscaleLabel1 | readFullscaleLabel2 | readDeviceType
      | readSpeedClass => exact absurd (by decide) haccessor
      | _ => rfl
    obtain ⟨finish, hfinish, hexec⟩ := exec_bus_without_label hlabel hbus hadmitted
    exact busCommand_labelBuf hfinish (hexec.symm.trans ht)
  | other _ _ r env events h => rw [h]

/-! ### The labels returned -/

theorem zero_not_mem_zeroTerminated (bytes : List Byte) : (0 : Byte) ∉ zeroTerminated bytes := by
  rw [zeroTerminated]
  split
  · exact fun hmem => by simpa using List.mem_takeWhile_imp hmem
  · exact List.not_mem_nil

/-- A label is empty, or the bytes go on with the zero that ends it (R201). -/
theorem zeroTerminated_eq_nil_or (bytes : List Byte) :
    zeroTerminated bytes = [] ∨ ∃ rest, bytes = zeroTerminated bytes ++ 0 :: rest := by
  by_cases hmem : (0 : Byte) ∈ bytes
  · obtain ⟨label, rest, rfl, hlabel⟩ := List.eq_append_cons_of_mem hmem
    rw [zeroTerminated_append_zero fun b hb => ne_of_mem_of_not_mem hb hlabel]
    exact .inr ⟨rest, rfl⟩
  · exact .inl (if_neg hmem)

theorem length_zeroTerminated_le {bytes : List Byte} {n : Nat} (h : bytes.length ≤ n + 1) :
    (zeroTerminated bytes).length ≤ n := by
  rcases zeroTerminated_eq_nil_or bytes with hnil | ⟨rest, heq⟩
  · rw [hnil]
    exact n.zero_le
  · rw [heq, List.length_append, List.length_cons] at h
    omega

theorem labelScan_next {buf : List Byte} {n : Nat} (h : labelScan buf n ≠ []) :
    (labelScan buf n).length + 1 ≤ n ∧ buf[(labelScan buf n).length]? = some 0 := by
  rw [labelScan_eq_zeroTerminated] at h ⊢
  obtain ⟨rest, heq⟩ := (zeroTerminated_eq_nil_or (buf.take n)).resolve_left h
  have hzero : (buf.take n)[(zeroTerminated (buf.take n)).length]? = some 0 :=
    (congrArg (fun bytes => bytes[(zeroTerminated (buf.take n)).length]?) heq).trans (by simp)
  rw [List.getElem?_take] at hzero
  split at hzero
  · next hlt => exact ⟨hlt, hzero⟩
  · cases hzero

theorem exec_openLabel {p : Option Nat} {len : Nat} (hw : i.wellFormed = true) (hs : s.started = true)
    (hp : some p ≠ some none)
    (hexec : exec i s = checkStarted i s (withParameter i p s fun a => labelCommand a len s)) :
    ∃ a, exec i s = labelCommand a len s := by
  obtain ⟨a, ha⟩ := Option.ne_none_iff_exists'.mp fun h => hp (congrArg some h)
  exact ⟨a, execOpen_some hw hs hexec ha⟩

/-- An admitted command of the label reader runs it, at length 16 where its field has that length (R204 to R207). -/
theorem exec_runsLabelReader (hlabel : runsLabelReader i = true) (hs : s.started = true) (h : i.admitted s) :
    ∃ len addr, exec i s = labelCommand addr len s ∧
      (i ∈ [.readFullscaleLabel1, .readFullscaleLabel2, .readDeviceType, .readSpeedClass] → len = 16) := by
  obtain ⟨hw, -, hp⟩ := h
  cases i with
  | readLabel addr len => exact ⟨len, addr, exec_readLabel hs addr len, fun hmem => by simp at hmem⟩
  | readProductNumber | readSerialNumber =>
    obtain ⟨a, hexec⟩ := exec_openLabel hw hs hp rfl
    exact ⟨32, a, hexec, fun hmem => absurd hmem (by decide)⟩
  | readFullscaleLabel1 | readFullscaleLabel2 | readDeviceType | readSpeedClass =>
    obtain ⟨a, hexec⟩ := exec_openLabel hw hs hp rfl
    exact ⟨16, a, hexec, fun _ => rfl⟩
  | _ => cases hlabel

/-- What the label reader returns, where it completes: the zero-terminated bytes of at most `len` and 32 (R200). -/
theorem labelCommand_returns {addr len : Nat} {bs : List Byte} (hexec : exec i s = labelCommand addr len s)
    (ht : exec i s = .next t) (hok : t.outcomes = s.outcomes ++ [.ok (.label bs)]) :
    ∃ bytes : List Byte, bytes.length = min len 32 ∧ bs = zeroTerminated bytes := by
  have hserves := busServes_of_ok (hexec.symm.trans ht) hok
  rw [spanFrames_mainRead] at hserves
  obtain ⟨u, hu, -, houtcomes, -⟩ := (busBehaviour_of_labelCommand hexec).1 hserves
  cases ht.symm.trans hu
  refine ⟨thirdBytes (s.answers (mainReads addr (min len 32))), by simp [thirdBytes, mainReads], ?_⟩
  simpa [houtcomes, eq_comm] using hok

theorem ne_label_of_endsWithoutLabel (hfinish : EndsWithoutLabel finish) (ht : busCommand txs finish s = .next t)
    (bs : List Byte) : t.outcomes ≠ s.outcomes ++ [.ok (.label bs)] := by
  intro hok
  obtain ⟨v, hv, hserved⟩ := busCommand_served_forall_finish (busServes_of_ok ht hok)
  obtain ⟨r, hr, hlabel⟩ := hfinish (s.answers txs) v
  cases ht.symm.trans (hserved finish)
  rw [hr, State.complete_outcomes, hv] at hok
  exact hlabel bs (by simpa using hok)

/-- Settles O46: the scan by `labelScan_next`; a command that returns a label ran the label reader, over at most 32
bytes, or 16. -/
theorem labelsAreZeroFreeAndShort : Obligations.LabelsAreZeroFreeAndShort := by
  refine ⟨fun buf n => ⟨?_, labelScan_next⟩, fun i s t bs ht hok => ?_⟩
  · rw [labelScan_eq_zeroTerminated]
    exact zero_not_mem_zeroTerminated _
  cases commandOutcome ht with
  | refused why h => simp [h, State.afterRefusal] at hok
  | bus hbus hadmitted _ =>
    cases hlabel : runsLabelReader i with
    | true =>
      obtain ⟨len, addr, hexec, hshort⟩ := exec_runsLabelReader hlabel (started_of_admitted hbus hadmitted) hadmitted
      obtain ⟨bytes, hlen, rfl⟩ := labelCommand_returns hexec ht hok
      refine ⟨zero_not_mem_zeroTerminated bytes, length_zeroTerminated_le (by omega), fun hi => ?_⟩
      have := hshort hi
      exact length_zeroTerminated_le (by omega)
    | false =>
      obtain ⟨finish, hfinish, hexec⟩ := exec_bus_without_label hlabel hbus hadmitted
      exact absurd hok (ne_label_of_endsWithoutLabel hfinish (hexec.symm.trans ht) bs)
  | other _ _ r env events h _ _ _ hresult =>
    rw [h] at hok
    exact absurd (by simpa using hok) (hresult bs)

end Sys2Proof.Machine
end

section
/-! The wire decoder's answers (spec/30_encoding.md R80 to R90): the classes of a frame, the commands it reads and their
frames, and the addresses it cannot tell apart. -/

namespace Sys2Proof.Machine

variable {i : Instr} {b0 : Byte}

/-! ### Classes of frames -/

/-- byte0 of a memory frame (R90). -/
def isMemoryOpcode (b0 : Byte) : Prop :=
  (0x10 ≤ b0.toNat ∧ b0.toNat ≤ 0x3F) ∨ (0x90 ≤ b0.toNat ∧ b0.toNat ≤ 0x9F)

theorem classifyFrame_memory_iff (b0 b1 b2 : Byte) :
    classifyFrame [b0, b1, b2] = .ok (.memory b0 b1 b2) ↔ isMemoryOpcode b0 := by
  rw [classifyFrame, isMemoryOpcode]
  split
  · next h => exact iff_of_true rfl h
  · next h => exact iff_of_false nofun h

theorem decodeFrame_unused3 (b1 b2 : Byte) (h : ¬ isMemoryOpcode b0) :
    decodeFrame [b0, b1, b2] = .error (.unusedOpcode b0) :=
  decodeFrame_of_no_class (if_neg h)

theorem decodeFrame_unused4 (b1 b2 b3 : Byte) (h : b0.toNat < 0x40) :
    decodeFrame [b0, b1, b2, b3] = .error (.unusedOpcode b0) :=
  decodeFrame_of_no_class (if_neg h.not_ge)

theorem exists_decodeF1_ok (b0 : Byte) : ∃ i, decodeF1 b0 = .ok i := by
  rw [decodeF1]
  split
  · exact ⟨_, rfl⟩
  · exact ⟨_, rfl⟩

/-- What a memory frame's opcode and third byte decide: a command, or a placeholder that is none. -/
theorem decodeF3_cases (b1 b2 : Byte) (h : isMemoryOpcode b0) :
    (b0.toNat ≤ 0x3F ∧ b2 ≠ 0 ∧ decodeF3 b0 b1 b2 = .error .badPlaceholder) ∨
    ((0x90 ≤ b0.toNat ∨ b2 = 0) ∧ ∃ i, decodeF3 b0 b1 b2 = .ok i) := by
  rw [isMemoryOpcode] at h
  simp only [decodeF3]
  split
  · split
    · next hb2 => exact .inr ⟨.inr hb2, _, rfl⟩
    · next hb2 => exact .inl ⟨by omega, hb2, rfl⟩
  · split
    · split
      · next hb2 => exact .inr ⟨.inr hb2, _, rfl⟩
      · next hb2 => exact .inl ⟨by omega, hb2, rfl⟩
    · rw [if_pos (by omega)]
      exact .inr ⟨.inl (by omega), _, rfl⟩

/-- What a register frame's opcode and value bytes decide: a command, no command, or a placeholder that is none. -/
theorem decodeF4_cases (b1 b2 b3 : Byte) (h : 0x40 ≤ b0.toNat) :
    (b0.toNat ≤ 0x7F ∧ ¬ (b1 = 0 ∧ b2 = 0 ∧ b3 = 0) ∧ decodeF4 b0 b1 b2 b3 = .error .badPlaceholder) ∨
    (0x80 ≤ b0.toNat ∧ b0.toNat ≤ 0xBF ∧ decodeF4 b0 b1 b2 b3 = .error (.noCommand b0)) ∨
    ((0xC0 ≤ b0.toNat ∨ b0.toNat ≤ 0x7F ∧ b1 = 0 ∧ b2 = 0 ∧ b3 = 0) ∧ ∃ i, decodeF4 b0 b1 b2 b3 = .ok i) := by
  simp only [decodeF4]
  split
  · split
    · next hread hzero => exact .inr (.inr ⟨.inr ⟨hread.2, hzero⟩, _, rfl⟩)
    · next hread hzero => exact .inl ⟨hread.2, hzero, rfl⟩
  · split
    · next hwrite => exact .inr (.inr ⟨.inl hwrite, _, rfl⟩)
    · exact .inr (.inl ⟨by omega, by omega, rfl⟩)

theorem classifyFrame_badLength {bs : List Byte} (h1 : bs.length ≠ 1) (h3 : bs.length ≠ 3) (h4 : bs.length ≠ 4) :
    classifyFrame bs = .error (.badLength bs.length) := by
  match bs with
  | [] | [_, _] | _ :: _ :: _ :: _ :: _ :: _ => rfl
  | [_] => exact absurd rfl h1
  | [_, _, _] => exact absurd rfl h3
  | [_, _, _, _] => exact absurd rfl h4

/-- Settles O26: each length by its class, and within a class by the cases of its decoder. -/
theorem framesAreClassifiedByLengthAndOpcode : Obligations.FramesAreClassifiedByLengthAndOpcode := by
  refine ⟨fun b0 => ⟨rfl, exists_decodeF1_ok b0⟩, fun b0 b1 b2 => ⟨classifyFrame_memory_iff b0 b1 b2, ?_⟩,
    fun b0 b1 b2 b3 => ?_, fun bs h1 h3 h4 => ?_⟩
  · by_cases h : isMemoryOpcode b0
    · have hlow : 0x10 ≤ b0.toNat := by rw [isMemoryOpcode] at h; omega
      rw [decodeFrame_memory b1 b2 h]
      rcases decodeF3_cases b1 b2 h with ⟨hread, hb2, heq⟩ | ⟨hvalid, i, heq⟩
      · rw [heq]
        exact ⟨iff_of_false nofun (not_not.mpr h), iff_of_true rfl ⟨hlow, hread, hb2⟩⟩
      · rw [heq]
        exact ⟨iff_of_false nofun (not_not.mpr h), iff_of_false nofun fun ⟨_, hread, hb2⟩ =>
          hvalid.elim (fun hwrite => by omega) hb2⟩
    · rw [decodeFrame_unused3 b1 b2 h]
      exact ⟨iff_of_true rfl h, iff_of_false nofun fun ⟨hlow, hread, _⟩ => h (.inl ⟨hlow, hread⟩)⟩
  · by_cases h : 0x40 ≤ b0.toNat
    · rw [decodeFrame_register b1 b2 b3 h]
      refine ⟨iff_of_true (if_pos h) h, ?_⟩
      rcases decodeF4_cases b1 b2 b3 h with ⟨hread, hne, heq⟩ | ⟨hlow, hhigh, heq⟩ | ⟨hvalid, i, heq⟩
      · rw [heq]
        exact ⟨iff_of_false nofun (by omega), iff_of_false nofun (by omega), iff_of_true rfl ⟨h, hread, hne⟩⟩
      · rw [heq]
        exact ⟨iff_of_false nofun (by omega), iff_of_true rfl ⟨hlow, hhigh⟩, iff_of_false nofun (by omega)⟩
      · rw [heq]
        exact ⟨iff_of_false nofun (by omega), iff_of_false nofun (by omega), iff_of_false nofun fun ⟨_, hread, hne⟩ =>
          hvalid.elim (fun hwrite => by omega) fun hzero => hne hzero.2⟩
    · rw [decodeFrame_unused4 b1 b2 b3 (not_le.mp h)]
      exact ⟨iff_of_false (by simp [classifyFrame, h]) h, iff_of_true rfl (not_le.mp h), iff_of_false nofun (by omega),
        iff_of_false nofun (by omega)⟩
  · have hclass := classifyFrame_badLength h1 h3 h4
    exact ⟨hclass, decodeFrame_of_no_class hclass⟩

/-- Settles O25: the decoder evaluated on the eight words. -/
theorem specWordsDecode : Obligations.SpecWordsDecode := by
  unfold Obligations.SpecWordsDecode
  decide

/-! ### What is read is what was sent -/

theorem byteOf_toNat (b : Byte) : byteOf b.toNat = b := by simp [byteOf]

theorem wellFormed_spanAccess (v : MemVariant) (a : Nat) (ds : List Byte) :
    (spanAccess v a ds).wellFormed = true := by
  cases v with
  | mainRead | otpRead => rfl
  | mainWrite =>
    refine (wellFormed_writeMemory a _).mpr fun d hd => ?_
    obtain ⟨b, -, rfl⟩ := List.mem_map.mp hd
    exact b.isLt

theorem encodeFrames_spanAccess (p : OpenParams) {v : MemVariant} (a : Nat) {ds : List Byte} (h : spanData v ds) :
    encodeFrames p (spanAccess v a ds) = spanFrames v a ds := by
  cases v with
  | mainRead | otpRead => exact congrArg _ (h nofun).symm
  | mainWrite =>
    have hbytes : (ds.map BitVec.toNat).map byteOf = ds := by
      rw [List.map_map]
      exact (List.map_congr_left fun b _ => byteOf_toNat b).trans (List.map_id ds)
    exact congrArg (spanFrames .mainWrite a) hbytes

/-- A byte is the number its frame's formula gives for it. -/
theorem byteOf_eq {n : Nat} {b : Byte} (h : n = b.toNat) : byteOf n = b := h ▸ byteOf_toNat b

theorem spanAccess_of_decodeF3 {b1 b2 : Byte} (h : decodeF3 b0 b1 b2 = .ok i) :
    ∃ v a, spanData v [b2] ∧ i = spanAccess v a [b2] ∧ memFrame v a b2 = [b0, b1, b2] := by
  have hb1 := b1.isLt
  simp only [decodeF3] at h
  split at h
  · split at h
    · next hb0 hb2 =>
      cases h
      refine ⟨.mainRead, b0.toNat % 16 * 256 + b1.toNat, fun _ => by rw [hb2]; rfl, rfl, ?_⟩
      rw [memFrame_mainRead, byteOf_eq (b := b0) (by omega), byteOf_eq (b := b1) (by omega)]
    · cases h
  · split at h
    · split at h
      · next hb0 hb2 =>
        cases h
        refine ⟨.otpRead, b0.toNat % 32 * 256 + b1.toNat, fun _ => by rw [hb2]; rfl, rfl, ?_⟩
        rw [memFrame_otpRead, byteOf_eq (b := b0) (by omega), byteOf_eq (b := b1) (by omega)]
      · cases h
    · split at h
      · next hb0 =>
        cases h
        refine ⟨.mainWrite, b0.toNat % 16 * 256 + b1.toNat, absurd rfl, rfl, ?_⟩
        rw [memFrame_mainWrite, byteOf_eq (b := b0) (by omega), byteOf_eq (b := b1) (by omega)]
      · cases h

/-- The command is well-formed and its frames are these, whatever the OPEN parameters are. -/
def sends (i : Instr) (fs : List (List Byte)) : Prop := i.wellFormed = true ∧ ∀ p, encodeFrames p i = fs

theorem sends_spanAccess {v : MemVariant} {ds : List Byte} (a : Nat) (h : spanData v ds) :
    sends (spanAccess v a ds) (spanFrames v a ds) :=
  ⟨wellFormed_spanAccess v a ds, fun p => encodeFrames_spanAccess p a h⟩

theorem sends_of_decodeF4 {b1 b2 b3 : Byte} (h : decodeF4 b0 b1 b2 b3 = .ok i) : sends i [[b0, b1, b2, b3]] := by
  have hb0 := b0.isLt
  have hb1 := b1.isLt
  have hb2 := b2.isLt
  have hb3 := b3.isLt
  simp only [decodeF4] at h
  split at h
  · split at h
    · next hopcode hzero =>
      cases h
      obtain ⟨rfl, rfl, rfl⟩ := hzero
      have hreg : b0.toNat % 64 < 64 := Nat.mod_lt _ (by decide)
      refine ⟨(wellFormed_readRegister _).mpr hreg, fun p => congrArg ([·]) ?_⟩
      rw [regReadFrame_eq hreg, byteOf_eq (b := b0) (by omega)]
    · cases h
  · split at h
    · next hopcode =>
      cases h
      have hreg : b0.toNat % 64 < 64 := Nat.mod_lt _ (by decide)
      refine ⟨(wellFormed_writeRegister _ _).mpr ⟨hreg, by rw [bigEndian24]; omega⟩, fun p => congrArg ([·]) ?_⟩
      rw [regWriteFrame_eq _ hreg, bigEndian24, byteOf_eq (b := b0) (by omega), byteOf_eq (b := b1) (by omega),
        byteOf_eq (b := b2) (by omega), byteOf_eq (b := b3) (by omega)]
    · cases h

theorem sends_of_decodeF1 (h : decodeF1 b0 = .ok i) : sends i [[b0]] := by
  rw [decodeF1] at h
  split at h
  · next hreset =>
    cases h
    exact ⟨rfl, fun p => congrArg (fun b => [[b]]) (byteOf_eq hreset.symm)⟩
  · cases h
    exact ⟨(wellFormed_sendCommand _).mpr b0.isLt, fun p => congrArg (fun b => [[b]]) (byteOf_toNat b0)⟩

/-- One frame read as a command is that command's frame. -/
theorem sends_of_decodeFrame {bs : List Byte} (h : decodeFrame bs = .ok i) : sends i [bs] := by
  match bs with
  | [b0] => exact sends_of_decodeF1 h
  | [b0, b1, b2] =>
    by_cases hopcode : isMemoryOpcode b0
    · rw [decodeFrame_memory b1 b2 hopcode] at h
      obtain ⟨v, a, hdata, rfl, hframe⟩ := spanAccess_of_decodeF3 h
      rw [← hframe]
      exact sends_spanAccess a hdata
    · cases (decodeFrame_unused3 b1 b2 hopcode).symm.trans h
  | [b0, b1, b2, b3] =>
    by_cases hopcode : 0x40 ≤ b0.toNat
    · rw [decodeFrame_register b1 b2 b3 hopcode] at h
      exact sends_of_decodeF4 h
    · cases (decodeFrame_unused4 b1 b2 b3 (not_le.mp hopcode)).symm.trans h
  | [] | [_, _] | _ :: _ :: _ :: _ :: _ :: _ => cases h

theorem eq_of_spanOr {v : MemVariant} {a : Nat} {ds : List Byte} {fs : List (List Byte)} {j : Instr}
    (h : spanOr v a ds fs j = .ok i) : i = j ∧ fs = spanFrames v a ds := by
  rw [spanOr] at h
  split at h
  · next heq =>
    cases h
    exact ⟨rfl, heq⟩
  · cases h

/-- Several frames read as a command are one span (R171). -/
theorem spanAccess_of_decodeSpan {f g : List Byte} {fs : List (List Byte)} (h : decodeSpan (f :: g :: fs) = .ok i) :
    ∃ v a ds, spanData v ds ∧ i = spanAccess v a ds ∧ f :: g :: fs = spanFrames v a ds := by
  have hread : ∀ v n, spanData v (placeholders n) := fun v n _ => by rw [length_placeholders]
  rw [decodeSpan] at h
  · split at h
    · next a _ _ =>
      obtain ⟨rfl, heq⟩ := eq_of_spanOr h
      exact ⟨.mainRead, a, _, hread _ _, congrArg _ (length_placeholders _).symm, heq⟩
    · next a _ _ =>
      obtain ⟨rfl, heq⟩ := eq_of_spanOr h
      exact ⟨.otpRead, a, _, hread _ _, congrArg _ (length_placeholders _).symm, heq⟩
    · next a _ _ =>
      obtain ⟨rfl, heq⟩ := eq_of_spanOr h
      exact ⟨.mainWrite, a, _, absurd rfl, rfl, heq⟩
    · cases h
    · cases h
  · simp

/-- Settles O23: one frame by `sends_of_decodeFrame`, several as a span by `spanAccess_of_decodeSpan`. -/
theorem wireDecoderAcceptsOnlyEncodings : Obligations.WireDecoderAcceptsOnlyEncodings := by
  intro p fs i h
  suffices hsends : sends i fs from ⟨hsends.1, hsends.2 p⟩
  match fs with
  | [] => cases h
  | [f] => exact sends_of_decodeFrame h
  | f :: g :: fs =>
    obtain ⟨v, a, ds, hdata, rfl, heq⟩ := spanAccess_of_decodeSpan h
    rw [heq]
    exact sends_spanAccess a hdata

/-! ### Addresses -/

/-- The low bits of an address are those of byte0 above those of byte1. -/
theorem address_eq_of_bytes (v : MemVariant) (a : Nat) (d : Byte) :
    a % 2 ^ (8 + memHighBits v) =
      (byteAt (memFrame v a d) 1).toNat + 2 ^ 8 * ((byteAt (memFrame v a d) 0).toNat % 2 ^ memHighBits v) := by
  rw [toNat_memFrame_byte1, toNat_memFrame_byte0_mod, Nat.pow_add, Nat.mod_mul]

theorem memFrame_eq_iff (v : MemVariant) (a b : Nat) (d : Byte) :
    memFrame v a d = memFrame v b d ↔ a % 2 ^ (8 + memHighBits v) = b % 2 ^ (8 + memHighBits v) := by
  refine ⟨fun h => ?_, fun h => ?_⟩
  · rw [address_eq_of_bytes v a d, h, ← address_eq_of_bytes v b d]
  · rw [memFrame_mod v a, h, ← memFrame_mod v b]

/-- Settles O29, by `memFrame_eq_iff` at each variant. -/
theorem addressesAliasModuloTheirBits : Obligations.AddressesAliasModuloTheirBits := fun a b d =>
  ⟨memFrame_eq_iff .mainRead a b d, memFrame_eq_iff .mainWrite a b d, memFrame_eq_iff .otpRead a b d⟩

end Sys2Proof.Machine
end

section
/-! The converters' results (spec/44_unit_converter.md R234, R237, R238): the exact reading, the temperature as a
pressure at full-scale 25, and the ranges, by the nearest-value property of rounding. -/

namespace Sys2Proof.Machine

variable {x y : F32} {neg : Bool} {v : ℚ}

/-! ### The reading -/

theorem f32Real_eq (x : F32) (h : f32Neg x = neg) : f32Real x = if neg then -f32Magnitude x else f32Magnitude x := by
  rw [f32Real, h]

theorem abs_f32Real (x : F32) : |f32Real x| = f32Magnitude x := by
  rw [f32Real]
  split
  · rw [abs_neg, abs_of_nonneg (f32Magnitude_nonneg x)]
  · exact abs_of_nonneg (f32Magnitude_nonneg x)

theorem f32Real_scaledReading (raw : Nat) : f32Real (scaledReading raw) = (reading24 raw : ℚ) / 2 ^ 21 := by
  have hneg := f32Neg_scaledReading raw
  rw [f32Real, hneg, (scaledReading_exact raw).2, Nat.cast_natAbs]
  by_cases h : reading24 raw < 0
  · rw [if_pos (decide_eq_true h), abs_of_neg h]
    push_cast
    ring
  · rw [if_neg (by simpa using h), abs_of_nonneg (not_lt.mp h)]

/-- Settles O59: the magnitude by `scaledReading_exact`, the sign by `f32Neg_scaledReading`. -/
theorem scaledReadingIsExact : Obligations.ScaledReadingIsExact := by
  intro raw
  rw [signedReading_eq_reading24]
  exact ⟨(scaledReading_exact raw).1, f32Real_scaledReading raw, f32Neg_scaledReading raw, rfl⟩

/-! ### The temperature -/

theorem f32Magnitude_tempSpan : f32Magnitude Config.tempSpan = 25 := by
  have hsig : f32Sig Config.tempSpan = 13107200 := by decide
  have hscale : f32Scale Config.tempSpan = -19 := by decide
  rw [f32Magnitude, hsig, hscale]
  norm_num

/-- The temperature is the pressure at full-scale 25.0 (R234). -/
theorem isRounded_temperatureOf (nan : F32) (raw : Nat) :
    isRounded (temperatureOf nan raw) (decide (reading24 raw < 0)) (((reading24 raw).natAbs : ℚ) * 25 / 2 ^ 21) := by
  have h := isRounded_pressureOf nan raw (f := Config.tempSpan) (by decide)
  have hneg : f32Neg Config.tempSpan = false := by decide
  rwa [f32Magnitude_tempSpan, hneg, Bool.bne_false] at h

theorem natAbs_reading24_le_rat (raw : Nat) : ((reading24 raw).natAbs : ℚ) ≤ 8388608 := by
  exact_mod_cast natAbs_reading24_le raw

theorem temperature_le (raw : Nat) : ((reading24 raw).natAbs : ℚ) * 25 / 2 ^ 21 ≤ 100 := by
  have := natAbs_reading24_le_rat raw
  rw [div_le_iff₀ (by positivity)]
  linarith

theorem f32IsFinite_temperatureOf (nan : F32) (raw : Nat) : f32IsFinite (temperatureOf nan raw) = true := by
  obtain ⟨-, -, hbelow⟩ := isRounded_temperatureOf nan raw
  exact (hbelow ((temperature_le raw).trans_lt (by norm_num))).1

theorem temperatureOf_of_zero (nan : F32) {raw : Nat} (h : reading24 raw = 0) : temperatureOf nan raw = 0x00000000 := by
  rw [temperatureOf, scaledReading, f32OfIntScaled, signedReading_eq_reading24, h]
  exact f32Mul_finite nan (by decide) (by decide)

theorem exec_convertTemperature {raw : Nat} (hraw : raw < 2 ^ 32) (s : State) :
    exec (.convertTemperature raw) s = .next (s.drawn.complete (.binary32 (temperatureOf s.nanNow raw))) :=
  checkRange_wellFormed ((wellFormed_convertTemperature raw).mpr hraw)

/-- Settles O56: the rounding by `isRounded_temperatureOf`, the range of the reading keeps it finite. -/
theorem convertTemperatureScalesBy25 : Obligations.ConvertTemperatureScalesBy25 :=
  ⟨fun s raw hraw => ⟨_, _, exec_convertTemperature hraw s, s.answeredTo_drawn_complete _,
    f32IsFinite_temperatureOf _ raw, isRounded_temperatureOf _ raw, temperatureOf_of_zero _⟩,
    fun _ _ hraw => exec_operandRange (decide_eq_false hraw.not_gt)⟩

/-! ### Ranges -/

/-- Rounding does not pass a finite pattern: a value up to `y` is rounded to at most `y`. -/
theorem f32Magnitude_le_of_le (h : isRounded x neg v) (hv : v < 2 ^ 128 - 2 ^ 103) (hy : f32IsFinite y = true)
    (hle : v ≤ f32Magnitude y) : f32Magnitude x ≤ f32Magnitude y := by
  obtain ⟨-, -, hbelow⟩ := h
  have hnear := ((hbelow hv).2 y hy).1
  rw [abs_of_nonneg (sub_nonneg.mpr hle)] at hnear
  linarith [le_abs_self (f32Magnitude x - v)]

theorem f32Scale_le_of_f32IsFinite (h : f32IsFinite x = true) : f32Scale x ≤ 104 := by
  have hexp : f32Exp x < 255 := by
    have hlt : f32Exp x < 256 := Nat.mod_lt _ (by decide)
    have hne : f32Exp x ≠ 255 := by simpa [f32IsFinite] using h
    omega
  rw [f32Scale]
  split
  · decide
  · omega

theorem f32Magnitude_lt_of_f32IsFinite (h : f32IsFinite x = true) : f32Magnitude x < 2 ^ 128 := by
  have hsig : (f32Sig x : ℚ) < 16777216 := by exact_mod_cast f32Sig_lt x
  calc f32Magnitude x = f32Sig x * 2 ^ f32Scale x := rfl
    _ < 16777216 * 2 ^ f32Scale x := by gcongr
    _ ≤ 16777216 * 2 ^ (104 : Int) := by
        gcongr
        · exact one_le_two
        · exact f32Scale_le_of_f32IsFinite h
    _ = 2 ^ 128 := by norm_num

/-- Every number of 24 significant bits within the exponent range has a pattern. -/
theorem exists_f32Magnitude_eq {m : Nat} {c : Int} (hm : m < 16777216) (hlow : -149 ≤ c) (hhigh : c ≤ 104) :
    ∃ y, f32IsFinite y = true ∧ f32Magnitude y = m * 2 ^ c := by
  have hvalue : ((m * 2 ^ c.toNat : Nat) : ℚ) / ((2 ^ (-c).toNat : Nat) : ℚ) = m * 2 ^ c := by
    rw [two_zpow_eq_div]
    push_cast
    ring
  obtain ⟨hfinite, hmag⟩ := rne32_exact false (by positivity) hm hlow hhigh hvalue
  exact ⟨_, hfinite, hmag.trans hvalue⟩

/-- Four times a finite pattern's magnitude has a pattern, unless it is past the range. -/
theorem exists_f32Magnitude_four_mul {f : F32} (h : 4 * f32Magnitude f < 2 ^ 128) :
    ∃ y, f32IsFinite y = true ∧ f32Magnitude y = 4 * f32Magnitude f := by
  have hfour : 4 * f32Magnitude f = f32Sig f * 2 ^ (f32Scale f + 2) := by
    rw [f32Magnitude, zpow_add₀ two_ne_zero]
    ring
  have hscale : f32Scale f + 2 ≤ 104 := by
    by_contra hbig
    have hnormal : 8388608 ≤ f32Sig f := by
      rw [f32Scale] at hbig
      rw [f32Sig]
      split at hbig
      · omega
      · next hexp =>
        rw [if_neg hexp]
        omega
    have hpast : (2 : ℚ) ^ 128 ≤ f32Sig f * 2 ^ (f32Scale f + 2) := by
      calc (2 : ℚ) ^ 128 = 8388608 * 2 ^ (105 : Int) := by norm_num
        _ ≤ f32Sig f * 2 ^ (f32Scale f + 2) := by
            gcongr
            · exact_mod_cast hnormal
            · exact one_le_two
            · omega
    linarith
  rw [hfour]
  exact exists_f32Magnitude_eq (f32Sig_lt f) (by linarith [neg149_le_f32Scale f]) hscale

/-- A finite pressure is at most four times the full-scale, since no reading exceeds 4 (R238). -/
theorem f32Magnitude_pressureOf_le {nan f : F32} {raw : Nat} (hf : f32IsFinite f = true)
    (hfinite : f32IsFinite (pressureOf nan raw f) = true) :
    f32Magnitude (pressureOf nan raw f) ≤ 4 * f32Magnitude f := by
  have hrounded := isRounded_pressureOf nan raw hf
  have hproduct := mul_le_mul_of_nonneg_right (natAbs_reading24_le_rat raw) (f32Magnitude_nonneg f)
  have hle : ((reading24 raw).natAbs : ℚ) * f32Magnitude f / 2 ^ 21 ≤ 4 * f32Magnitude f := by
    rw [div_le_iff₀ (by positivity)]
    linarith
  by_cases hrange : 4 * f32Magnitude f < 2 ^ 128
  · obtain ⟨y, hy, hmag⟩ := exists_f32Magnitude_four_mul hrange
    rw [← hmag] at hle ⊢
    refine f32Magnitude_le_of_le hrounded (not_le.mp fun hover => ?_) hy hle
    obtain ⟨-, hinf, -⟩ := hrounded
    exact Bool.false_ne_true ((not_f32IsInf_of_f32IsFinite hfinite).symm.trans (hinf hover))
  · exact (f32Magnitude_lt_of_f32IsFinite hfinite).le.trans (not_lt.mp hrange)

/-- The pattern of the greatest temperature, 99.99998474121094 (R238). -/
theorem f32Magnitude_hottest : f32Magnitude 0x42C7FFFE = 13107198 / 131072 := by
  have hsig : f32Sig 0x42C7FFFE = 13107198 := by decide
  have hscale : f32Scale 0x42C7FFFE = -17 := by decide
  rw [f32Magnitude, hsig, hscale]
  norm_num

theorem f32Magnitude_hundred : f32Magnitude 0x42C80000 = 100 := by
  have hsig : f32Sig 0x42C80000 = 13107200 := by decide
  have hscale : f32Scale 0x42C80000 = -17 := by decide
  rw [f32Magnitude, hsig, hscale]
  norm_num

/-- Above 64 the patterns are multiples of 2^-17. -/
theorem f32Magnitude_eq_div_of_le (h : 64 ≤ f32Magnitude x) : ∃ k : Nat, f32Magnitude x = k / 131072 := by
  have hscale : -17 ≤ f32Scale x := by
    by_contra! hlow
    have hbelow := f32Magnitude_lt hlow
    norm_num at hbelow
    linarith
  obtain ⟨k, hk⟩ := f32Magnitude_eq_mul hscale
  refine ⟨k, hk.trans ?_⟩
  norm_num [div_eq_mul_inv]

/-- The pattern after 0x42C7FFFE is farther than it from what the greatest reading, 2^23 - 1, gives exactly. -/
theorem f32Magnitude_le_hottest (h : isRounded x neg v) (hv : v ≤ 8388607 * 25 / 2 ^ 21) :
    f32Magnitude x ≤ f32Magnitude 0x42C7FFFE := by
  by_contra! hgt
  obtain ⟨-, -, hbelow⟩ := h
  have hnear := ((hbelow (hv.trans_lt (by norm_num))).2 0x42C7FFFE (by decide)).1
  rw [f32Magnitude_hottest] at hgt hnear
  obtain ⟨k, hk⟩ := f32Magnitude_eq_div_of_le (x := x) (le_trans (by norm_num) hgt.le)
  rw [hk] at hgt hnear
  have hnext : (13107199 : ℚ) ≤ k := by
    have hlt : (13107198 : ℚ) < k := by linarith
    exact_mod_cast hlt
  have hleft := (le_abs_self _).trans hnear
  rcases abs_cases ((13107198 : ℚ) / 131072 - v) with ⟨habs, -⟩ | ⟨habs, -⟩
  · linarith
  · linarith

theorem f32Magnitude_temperatureOf_le (nan : F32) (raw : Nat) : f32Magnitude (temperatureOf nan raw) ≤ 100 := by
  have hle := temperature_le raw
  rw [← f32Magnitude_hundred] at hle ⊢
  exact f32Magnitude_le_of_le (isRounded_temperatureOf nan raw) ((temperature_le raw).trans_lt (by norm_num))
    (by decide) hle

theorem f32Real_hottest : f32Real 0x42C7FFFE = f32Magnitude 0x42C7FFFE := f32Real_eq _ (neg := false) (by decide)

/-- A reading below zero gives at least -100.0, another at most 99.99998474121094 (R238). -/
theorem f32Real_temperatureOf_bounds (nan : F32) (raw : Nat) :
    -100 ≤ f32Real (temperatureOf nan raw) ∧ f32Real (temperatureOf nan raw) ≤ f32Real 0x42C7FFFE := by
  have hrounded := isRounded_temperatureOf nan raw
  have hreal := f32Real_eq _ hrounded.1
  have hpos := f32Magnitude_nonneg (temperatureOf nan raw)
  rw [f32Real_hottest]
  by_cases h : reading24 raw < 0
  · rw [hreal, if_pos (decide_eq_true h)]
    exact ⟨neg_le_neg (f32Magnitude_temperatureOf_le nan raw),
      (neg_nonpos.mpr hpos).trans (f32Magnitude_nonneg _)⟩
  · rw [hreal, if_neg (by simpa using h)]
    refine ⟨by linarith, f32Magnitude_le_hottest hrounded ?_⟩
    have hs : ((reading24 raw).natAbs : ℚ) ≤ 8388607 := by
      have := reading24_bounds raw
      exact_mod_cast (show (reading24 raw).natAbs ≤ 8388607 by omega)
    linarith

/-- Settles O60: the reading exactly, the pressure by `f32Magnitude_pressureOf_le`, the temperature by
`f32Real_temperatureOf_bounds`, and its two ends computed. -/
theorem resultsLieInTheirRanges : Obligations.ResultsLieInTheirRanges := by
  refine ⟨fun raw => ?_, fun nan f raw hf hfinite => ?_, f32Real_temperatureOf_bounds, fun nan => ⟨?_, ?_⟩⟩
  · obtain ⟨hlow, hhigh⟩ := reading24_bounds raw
    have hlow' : (-8388608 : ℚ) ≤ reading24 raw := by exact_mod_cast hlow
    have hhigh' : (reading24 raw : ℚ) ≤ 8388607 := by exact_mod_cast hhigh
    rw [signedReading_eq_reading24, f32Real_scaledReading]
    refine ⟨by omega, by omega, ?_, ?_⟩
    · rw [le_div_iff₀ (by positivity)]
      linarith
    · rw [div_le_iff₀ (by positivity)]
      linarith
  · rw [abs_f32Real, abs_f32Real]
    exact f32Magnitude_pressureOf_le hf hfinite
  · exact (f32Mul_finite nan (by decide +kernel) (by decide)).trans (by decide +kernel)
  · exact (f32Mul_finite nan (by decide +kernel) (by decide)).trans (by decide +kernel)

end Sys2Proof.Machine
end
